-- ==== Sys2Proof/Word.lean ====
section
/-! DEFINITION. The word types of the block: the received byte, the sentinel word, the channel index. -/

namespace Sys2Proof

/-- One received byte, unsigned (00_scope.md 6.1, R35, R50). -/
abbrev Byte := BitVec 8

/-- The sentinel word (R21: "one 32-bit word"). -/
abbrev Word := BitVec 32

/-- A channel index, 0 or 1 (R15; `NUM_CHANNELS` is 2, R6). -/
abbrev Channel := Fin 2

end Sys2Proof
end

