-- ==== Sys2Proof/Machine/Events.lean ====
section
/-! DEFINITION. The named sets of the spec: MODE, PHASE, direction, the kinds of reset, and the input and output
events across the block's boundary (R4). -/

namespace Sys2Proof

/-- MODE (R10): exactly three values. -/
inductive Mode
  | idle
  | awaitingSpeed (ch : Channel)
  deriving DecidableEq, Repr

/-- PHASE (R20). -/
inductive Phase
  | bootCheck
  | running
  | awaitReset
  | updateMode
  deriving DecidableEq, Repr

/-- The direction payload of R4: two values (90_conflicts.md C2: `Halt` is never emitted). -/
inductive Direction
  | forward
  | reverse
  deriving DecidableEq, Repr

/-- The two kinds of reset (R150). -/
inductive ResetKind
  | powerOn
  | warm
  deriving DecidableEq, Repr

/-- What the environment does to the block (R4), in the order in which it does it. DESIGN CHOICE (log entries 1
and 2), safe: a reset says of itself whether it falls at rest or inside the reaction to what came before. -/
inductive Input
  /-- `RxByte(b)`. -/
  | rx (b : Byte)
  /-- `Reset(kind)` while no step and no boot sequence is in progress. -/
  | reset (kind : ResetKind)
  /-- `Reset(kind)` inside the reaction to the input before it (or inside the boot sequence), after exactly
  `n` of that reaction's events, or after its last one where it has no more than `n` (R133). -/
  | resetDuring (n : Nat) (kind : ResetKind)
  deriving DecidableEq, Repr

/-- What the block does to the environment (R4). -/
inductive OutEvent
  | txVersionLine
  | txUpdateNotice
  | drvDisable (ch : Channel)
  | drvEnable (ch : Channel)
  | drvSetDirection (ch : Channel) (d : Direction)
  | drvSetMagnitude (ch : Channel) (m : Nat)
  /-- `MemRead(addr, bytes)`, which returned `v`. -/
  | memRead (addr : Nat) (bytes : Nat) (v : Word)
  | memWrite (addr : Nat) (bytes : Nat) (v : Word)
  | resetRequest
  | chainLoad
  | startupInit
  deriving DecidableEq, Repr

end Sys2Proof
end

