-- ==== Sys2Proof/Syntax.lean ====
section
/-! DEFINITION. The instructions: one constructor per mnemonic of spec/opcode_table.json (R56). A mnemonic with
several rows of the table (`NOPU`, `SPDREV`) has one constructor, as R55 has one rule for its rows. -/

namespace Sys2Proof

/-- A decoded byte. The Speed Byte commands carry the channel that MODE held when the byte was decoded
(R91, R93 to R95: "Operands: `ch` from `MODE`"), and the drives carry the byte itself. -/
inductive Instr
  /-- `NOP`, R71. -/
  | nop
  /-- `VER`, R72. -/
  | ver
  /-- `SEL0`, R73. -/
  | sel0
  /-- `SEL1`, R74. -/
  | sel1
  /-- `UPD`, R75. -/
  | upd
  /-- `NOPU`, R76: the unrecognised byte `b`. -/
  | nopu (b : Byte)
  /-- `SPDNOP`, R91. -/
  | spdnop (ch : Channel)
  /-- `SPDDIS`, R93. -/
  | spddis (ch : Channel)
  /-- `SPDREV`, R94. -/
  | spdrev (ch : Channel) (b : Byte)
  /-- `SPDFWD`, R95. -/
  | spdfwd (ch : Channel) (b : Byte)
  deriving DecidableEq, Repr

end Sys2Proof
end

