-- ==== Sys2Proof/WellFormed.lean ====
section
/-! DEFINITION. Which instruction terms some (MODE, byte) pair decodes to: the byte ranges of R56. -/

namespace Sys2Proof

/-- The byte an instruction carries lies in the range its row of R56 gives. -/
def Instr.wellFormed : Instr → Bool
  | .nop => true
  | .ver => true
  | .sel0 => true
  | .sel1 => true
  | .upd => true
  | .nopu b => 5 ≤ b.toNat
  | .spdnop _ => true
  | .spddis _ => true
  | .spdrev _ b => 2 ≤ b.toNat && b.toNat ≤ 127
  | .spdfwd _ b => 128 ≤ b.toNat

end Sys2Proof
end

