-- ==== Sys2Proof/Decode.lean ====
section
/-! DEFINITION. The decoder, total on every (MODE, byte) pair, and the encoder, both from R52 to R56. -/

namespace Sys2Proof

/-- Why a decode word is refused. -/
inductive DecodeReject
  /-- The mode bits are `0b01`, which "is not a state and never occurs" (R55). -/
  | modeNotAState
  deriving DecidableEq, Repr

/-- The map of R56. In `Idle` the whole byte is compared by value (R52); in `AwaitingSpeed(ch)` the values 0 and
1 are matched before bit 7 is looked at (R53). -/
def decode : Mode → Byte → Instr
  | .idle, b =>
    if b = 0x00 then .nop
    else if b = 0x01 then .ver
    else if b = 0x02 then .sel0
    else if b = 0x03 then .sel1
    else if b = 0x04 then .upd
    else .nopu b
  | .awaitingSpeed ch, b =>
    if b = 0x00 then .spdnop ch
    else if b = 0x01 then .spddis ch
    else if b.toNat < 128 then .spdrev ch b
    else .spdfwd ch b

/-- The mode bits of R55. -/
def modeBits : Mode → BitVec 2
  | .idle => 0b00
  | .awaitingSpeed ch => if ch = 0 then 0b10 else 0b11

/-- MODE from its bits; `0b01` is no state (R55). -/
def modeOfBits (m : BitVec 2) : Except DecodeReject Mode :=
  if m = 0b00 then .ok .idle
  else if m = 0b10 then .ok (.awaitingSpeed 0)
  else if m = 0b11 then .ok (.awaitingSpeed 1)
  else .error .modeNotAState

/-- The 10-bit decode word of R55, the mode bits above the byte. -/
abbrev DecodeWord := BitVec 10

/-- Bits 9:8 of a decode word. -/
def wordModeBits (w : DecodeWord) : BitVec 2 := w.extractLsb' 8 2

/-- Bits 7:0 of a decode word. -/
def wordByte (w : DecodeWord) : Byte := w.extractLsb' 0 8

/-- The instruction a decode word stands for (R55, R56). -/
def decodeWord (w : DecodeWord) : Except DecodeReject Instr :=
  match modeOfBits (wordModeBits w) with
  | .ok m => .ok (decode m (wordByte w))
  | .error e => .error e

/-- The MODE in which an instruction is decoded (R56, first column). -/
def Instr.mode : Instr → Mode
  | .nop => .idle
  | .ver => .idle
  | .sel0 => .idle
  | .sel1 => .idle
  | .upd => .idle
  | .nopu _ => .idle
  | .spdnop ch => .awaitingSpeed ch
  | .spddis ch => .awaitingSpeed ch
  | .spdrev ch _ => .awaitingSpeed ch
  | .spdfwd ch _ => .awaitingSpeed ch

/-- The byte an instruction is received as (R56, second column). -/
def Instr.byte : Instr → Byte
  | .nop => 0x00
  | .ver => 0x01
  | .sel0 => 0x02
  | .sel1 => 0x03
  | .upd => 0x04
  | .nopu b => b
  | .spdnop _ => 0x00
  | .spddis _ => 0x01
  | .spdrev _ b => b
  | .spdfwd _ b => b

/-- The decode word of an instruction (R55). -/
def encode (i : Instr) : DecodeWord := modeBits i.mode ++ i.byte

/-- The bits of a table word, those above `nbits` cleared. -/
def tableWordBits (nbits w : Nat) : Nat := w % 2 ^ nbits

/-- The instruction the decoder reads from a table word: bits 7:0 the byte, bits 9:8 the mode bits of R55, so that
an 8-bit word is a byte received in `Idle`. DESIGN CHOICE (log entry 9), safe. -/
def decodeTableWord (nbits w : Nat) : Option Instr :=
  if tableWordBits nbits w < 1024 then
    match decodeWord (BitVec.ofNat 10 (tableWordBits nbits w)) with
    | .ok i => some i
    | .error _ => none
  else none

end Sys2Proof
end

