-- ==== Sys2Proof/Config.lean ====
section
/-! DEFINITION. What an instance of the hardware fixes (R6) and the free values: constants without a value,
so that a claim holds whatever they are. -/

namespace Sys2Proof.Config

/-- Which of the 2^32 - 1 non-zero words `MAGIC` is. DESIGN CHOICE (log entry 6), safe: no value is given. -/
opaque magicIndex : Fin 4294967295

/-- `MAGIC`, the 32-bit magic constant (R6, D3): any word but 0. -/
def MAGIC : Word := BitVec.ofNat 32 (magicIndex.val + 1)

/-- `SENTINEL_ADDR` divided by 4. DESIGN CHOICE (log entry 6), safe: no value is given. -/
opaque sentinelWordIndex : Nat

/-- `SENTINEL_ADDR` (R6), naturally aligned for a 32-bit access (R32, D4). -/
def SENTINEL_ADDR : Nat := 4 * sentinelWordIndex

/-- `VERSION_LINE` (R6, D5): the bytes behind `TxVersionLine`. -/
opaque VERSION_LINE : List Byte

/-- `UPDATE_NOTICE` (R6, D6): the bytes behind `TxUpdateNotice`. -/
opaque UPDATE_NOTICE : List Byte

/-- `ALT_IMAGE_HEADER_ADDR` (R6, D7): read inside `ChainLoad`, by no rule. -/
opaque ALT_IMAGE_HEADER_ADDR : Nat

/-- `ALT_SP_OFFSET` (R6, D7): read inside `ChainLoad`, by no rule. -/
opaque ALT_SP_OFFSET : Nat

/-- `ALT_ENTRY_OFFSET` (R6, D7): read inside `ChainLoad`, by no rule. -/
opaque ALT_ENTRY_OFFSET : Nat

/-- `UPDATE_IMAGE_PRESERVES_SENTINEL` (R25, D15): whether the instance assumes that the update image leaves
the sentinel cell alone. -/
opaque UPDATE_IMAGE_PRESERVES_SENTINEL : Bool

/-- The free value of the `n`-th draw of a 32-bit word: `draw(bits32)` of R24, R25 and R151. -/
opaque drawnWord : Nat → Word

/-- The free value of R158: which bytes the Serial Link delivers after the `n`-th draw's reset, given the bytes
that arrived while the block consumed none ("some sequence the environment supplies"). -/
opaque linkDelivers : Nat → List Byte → List Byte

end Sys2Proof.Config
end

