-- ==== Sys2Proof/Machine/State.lean ====
section
/-! DEFINITION. The machine's state, the reasons a step can stop, and the state after reset. -/

namespace Sys2Proof.Machine

/-- The block has no fault: "A model's step function for `PHASE = Running` returns a next state for every input
and has no fault outcome" (R130). No one raises one. -/
inductive Fault
  deriving DecidableEq, Repr

/-- Why the model gives no meaning. -/
inductive Refusal
  /-- Raised by an arm of `exec` that has no meaning yet, and by nothing else. Safe. No arm raises it now. -/
  | notModelled (mnemonic : String)
  deriving DecidableEq, Repr

/-- The whole state. `mode`, `phase` and `sent` are the block's (R10, R20, R21); `trace` is what it has done to the
environment (R5); `inputs` and `unread` are the environment's (R4, R27); `draws` is the model's own. -/
structure State where
  /-- MODE (R10). -/
  mode : Mode
  /-- PHASE (R20). -/
  phase : Phase
  /-- SENT, the sentinel cell (R21), one 32-bit value without a byte order (R31). -/
  sent : Word
  /-- The output events so far, oldest first (R5). -/
  trace : List OutEvent
  /-- The input events to come, the next one first (R4). DESIGN CHOICE (log entry 1). -/
  inputs : List Input
  /-- The bytes that arrived while the block consumed none, oldest first: state of the Serial Link (R27, R158). -/
  unread : List Byte
  /-- How many free values have been drawn (R24, R25, R158). -/
  draws : Nat
  deriving DecidableEq, Repr

namespace State

/-- The machine immediately after `Reset(PowerOn)`, before `boot` runs (R29). SENT is the first draw (R24); that no
input is listed and no event emitted is a DESIGN CHOICE (log entries 1, 8 and 12). -/
def reset : State where
  mode := .idle
  phase := .bootCheck
  sent := Config.drawnWord 0
  trace := []
  inputs := []
  unread := []
  draws := 1

end State

end Sys2Proof.Machine
end

