-- ==== Sys2Proof/Machine/Ops.lean ====
section
/-! DEFINITION. The shared operations: the pseudocode primitives of 00_scope.md 6.2 and how a sequence of them is
performed and cut, `enterUpdateMode` (R110), taking a reset (R151) and the boot-mode check (R113). -/

namespace Sys2Proof.Machine

namespace State

/-- `emit E` (R5). -/
def emit (e : OutEvent) (s : State) : State := { s with trace := s.trace ++ [e] }

/-- `MODE <- m`. -/
def setMode (m : Mode) (s : State) : State := { s with mode := m }

/-- `PHASE <- p`. -/
def setPhase (p : Phase) (s : State) : State := { s with phase := p }

/-- `MemRead(SENTINEL_ADDR, 4)`: the whole word, without a side effect on it (R30, R34). -/
def readSent (s : State) : State := s.emit (.memRead Config.SENTINEL_ADDR 4 s.sent)

/-- `MemWrite(SENTINEL_ADDR, 4, v)`: the whole word, in the cell when the event is done (R30, R33, R40). -/
def writeSent (v : Word) (s : State) : State :=
  { s with sent := v, trace := s.trace ++ [.memWrite Config.SENTINEL_ADDR 4 v] }

end State

/-- One line of a rule's pseudocode. -/
inductive Action
  | emit (e : OutEvent)
  | readSent
  | writeSent (v : Word)
  | setMode (m : Mode)
  | setPhase (p : Phase)
  deriving DecidableEq, Repr

/-- Whether a line is an event across the boundary (R4); an assignment is none. -/
def Action.isEvent : Action → Bool
  | .emit _ => true
  | .readSent => true
  | .writeSent _ => true
  | .setMode _ => false
  | .setPhase _ => false

/-- What one line does. -/
def doAction : Action → State → State
  | .emit e, s => s.emit e
  | .readSent, s => s.readSent
  | .writeSent v, s => s.writeSent v
  | .setMode m, s => s.setMode m
  | .setPhase p, s => s.setPhase p

/-- The lines in order, each complete before the next begins (R5, R39). -/
def perform : List Action → State → State
  | [], s => s
  | a :: as, s => perform as (doAction a s)

/-- What is left of a sequence that a reset cuts after `n` events (R133): the lines before event `n + 1`. An
assignment goes with the event before it. DEDUCED (log entry 2), safe. -/
def cutAfter : Nat → List Action → List Action
  | _, [] => []
  | n, a :: as =>
    match a.isEvent, n with
    | false, n => a :: cutAfter n as
    | true, 0 => []
    | true, n + 1 => a :: cutAfter n as

/-- `enterUpdateMode()` (R110): notice, sentinel write, reset request, halt. -/
def enterUpdateMode : List Action :=
  [.emit .txUpdateNotice, .writeSent Config.MAGIC, .emit .resetRequest, .setPhase .awaitReset]

/-- `boot(kind)` (R113), which depends on `kind` only through the content `v` of SENT. -/
def bootScript (v : Word) : List Action :=
  .readSent ::
    (if v = Config.MAGIC then [.writeSent 0, .emit .chainLoad, .setPhase .updateMode]
     else [.emit .startupInit, .setPhase .running])

/-- The bytes kept for after a reset, put where the block will see them: behind the resets that cut the boot
sequences to come (R158; log entry 8). -/
def deliverLater (bs : List Byte) : List Input → List Input
  | .resetDuring n k :: rest => .resetDuring n k :: deliverLater bs rest
  | rest => bs.map .rx ++ rest

/-- The bytes the Serial Link delivers after a reset: none if none waited, else a free value (R158). -/
def deliveredAfterReset (n : Nat) (unread : List Byte) : List Byte :=
  if unread = [] then [] else Config.linkDelivers n unread

/-- SENT after `Reset(kind)` (R151): drawn if power was lost, or if the reset ends UpdateMode and the instance does
not assume that the update image preserves the cell (R25); else unchanged (R21). -/
def sentAfterReset (kind : ResetKind) (s : State) : Word :=
  if kind = .powerOn then Config.drawnWord s.draws
  else if s.phase = .updateMode ∧ Config.UPDATE_IMAGE_PRESERVES_SENTINEL = false then Config.drawnWord s.draws
  else s.sent

/-- Taking `Reset(kind)` (R151, R134): nothing is saved, MODE returns to `Idle`, PHASE to `BootCheck`, SENT is kept or
drawn. The boot sequence follows in the next step. There is no return (R135). -/
def takeReset (kind : ResetKind) (s : State) : State :=
  { s with
    mode := .idle
    phase := .bootCheck
    sent := sentAfterReset kind s
    inputs := deliverLater (deliveredAfterReset s.draws s.unread) s.inputs
    unread := []
    draws := s.draws + 1 }

/-- The reset, if any, that cuts the reaction in progress: its place, its kind and the inputs behind it. -/
def cutting : List Input → Option (Nat × ResetKind × List Input)
  | .resetDuring n k :: rest => some (n, k, rest)
  | _ => none

/-- A sequence that a reset cuts after `n` events: what it had done stands, the rest is abandoned, and the reset is
taken (R133, R134). -/
def performCut (n : Nat) (kind : ResetKind) (script : List Action) (s : State) : State :=
  takeReset kind (perform (cutAfter n script) s)

/-- The bytes an output event hands to the Serial Link (R36). -/
def serialBytes : OutEvent → List Byte
  | .txVersionLine => Config.VERSION_LINE
  | .txUpdateNotice => Config.UPDATE_NOTICE
  | .drvDisable _ => []
  | .drvEnable _ => []
  | .drvSetDirection _ _ => []
  | .drvSetMagnitude _ _ => []
  | .memRead _ _ _ => []
  | .memWrite _ _ _ => []
  | .resetRequest => []
  | .chainLoad => []
  | .startupInit => []

end Sys2Proof.Machine
end

