-- ==== Sys2Proof/Machine/CommandCodes.lean ====
section
/-! DEFINITION. The commands of Mode Idle (40_command_codes.md). Each has its pseudocode as a sequence, so that a
reset can cut it (R133), and its meaning, the whole sequence performed. -/

namespace Sys2Proof.Machine

/-- `NOP` (R71): `MODE <- Idle`. -/
def scriptNop : List Action := [.setMode .idle]

/-- `NOP` (R71). -/
def execNop (s : State) : Host.Outcome State Fault Refusal := .next (perform scriptNop s)

/-- `VER` (R72): `emit TxVersionLine ; MODE <- Idle`. -/
def scriptVer : List Action := [.emit .txVersionLine, .setMode .idle]

/-- `VER` (R72). -/
def execVer (s : State) : Host.Outcome State Fault Refusal := .next (perform scriptVer s)

/-- `SEL0` (R73): `MODE <- AwaitingSpeed(0)`. -/
def scriptSel0 : List Action := [.setMode (.awaitingSpeed 0)]

/-- `SEL0` (R73). -/
def execSel0 (s : State) : Host.Outcome State Fault Refusal := .next (perform scriptSel0 s)

/-- `SEL1` (R74): `MODE <- AwaitingSpeed(1)`. -/
def scriptSel1 : List Action := [.setMode (.awaitingSpeed 1)]

/-- `SEL1` (R74). -/
def execSel1 (s : State) : Host.Outcome State Fault Refusal := .next (perform scriptSel1 s)

/-- `UPD` (R75): `enterUpdateMode()`. MODE is not written. -/
def scriptUpd : List Action := enterUpdateMode

/-- `UPD` (R75). -/
def execUpd (s : State) : Host.Outcome State Fault Refusal := .next (perform scriptUpd s)

/-- `NOPU` (R76): `MODE <- Idle`; the byte value is discarded. -/
def scriptNopu (_b : Byte) : List Action := [.setMode .idle]

/-- `NOPU` (R76). -/
def execNopu (b : Byte) (s : State) : Host.Outcome State Fault Refusal := .next (perform (scriptNopu b) s)

end Sys2Proof.Machine
end

