-- ==== Sys2Proof/Machine/Operands.lean ====
section
/-! DEFINITION. The Speed Byte's operand (R53, R54, R96) and the Command Translator (R90). -/

namespace Sys2Proof.Machine

/-- `signed = int(b) - 128`, over the integers (R54). -/
def signed (b : Byte) : Int := (b.toNat : Int) - 128

/-- `Reverse` if `signed < 0`, else `Forward` (R54). -/
def direction (b : Byte) : Direction := if signed b < 0 then .reverse else .forward

/-- `abs(signed)` (R54). A count, so a natural number (log entry 15). -/
def magnitude (b : Byte) : Nat := (signed b).natAbs

/-- `128 - int(b)`, the magnitude R94 gives for the bytes 0x02 to 0x7F. -/
def reverseMagnitude (b : Byte) : Nat := 128 - b.toNat

/-- `int(b) - 128`, the magnitude R95 gives for the bytes 0x80 to 0xFF. -/
def forwardMagnitude (b : Byte) : Nat := b.toNat - 128

/-- The Command Translator `apply(ch, b)` (R90). It has no meaning at byte 0 (R92, D2: "A model refuses (gives no
meaning to) `apply(ch, 0)`"), which is `none` here. -/
def apply (ch : Channel) (b : Byte) : Option (List OutEvent) :=
  if b = 0 then none
  else if b = 1 then some [.drvDisable ch]
  else some [.drvEnable ch, .drvSetDirection ch (direction b), .drvSetMagnitude ch (magnitude b)]

end Sys2Proof.Machine
end

