-- ==== Sys2Proof/Machine/SpeedBytes.lean ====
section
/-! DEFINITION. The commands of Mode AwaitingSpeed (41_speed_bytes.md). `ch` is the channel the decoder read from
MODE; a meaning does not look at MODE again (log entry 11). -/

namespace Sys2Proof.Machine

/-- `SPDNOP` (R91): `MODE <- Idle`; the channel gets no event. -/
def scriptSpdnop (_ch : Channel) : List Action := [.setMode .idle]

/-- `SPDNOP` (R91). -/
def execSpdnop (ch : Channel) (s : State) : Host.Outcome State Fault Refusal := .next (perform (scriptSpdnop ch) s)

/-- `SPDDIS` (R93): `emit DrvDisable(ch) ; MODE <- Idle`. -/
def scriptSpddis (ch : Channel) : List Action := [.emit (.drvDisable ch), .setMode .idle]

/-- `SPDDIS` (R93). -/
def execSpddis (ch : Channel) (s : State) : Host.Outcome State Fault Refusal := .next (perform (scriptSpddis ch) s)

/-- A drive (R97): enable, direction, magnitude, in that order, then `MODE <- Idle`. -/
def driveScript (ch : Channel) (d : Direction) (m : Nat) : List Action :=
  [.emit (.drvEnable ch), .emit (.drvSetDirection ch d), .emit (.drvSetMagnitude ch m), .setMode .idle]

/-- `SPDREV` (R94). -/
def scriptSpdrev (ch : Channel) (b : Byte) : List Action := driveScript ch .reverse (reverseMagnitude b)

/-- `SPDREV` (R94). -/
def execSpdrev (ch : Channel) (b : Byte) (s : State) : Host.Outcome State Fault Refusal :=
  .next (perform (scriptSpdrev ch b) s)

/-- `SPDFWD` (R95). -/
def scriptSpdfwd (ch : Channel) (b : Byte) : List Action := driveScript ch .forward (forwardMagnitude b)

/-- `SPDFWD` (R95). -/
def execSpdfwd (ch : Channel) (b : Byte) (s : State) : Host.Outcome State Fault Refusal :=
  .next (perform (scriptSpdfwd ch b) s)

end Sys2Proof.Machine
end

