-- ==== Sys2Proof/Machine/Dispatch.lean ====
section
/-! DEFINITION. One arm per instruction. -/

namespace Sys2Proof.Machine

def exec (i : Instr) (s : State) : Host.Outcome State Fault Refusal :=
  match i with
  | .nop => Sys2Proof.Machine.execNop s
  | .ver => Sys2Proof.Machine.execVer s
  | .sel0 => Sys2Proof.Machine.execSel0 s
  | .sel1 => Sys2Proof.Machine.execSel1 s
  | .upd => Sys2Proof.Machine.execUpd s
  | .nopu b => Sys2Proof.Machine.execNopu b s
  | .spdnop ch => Sys2Proof.Machine.execSpdnop ch s
  | .spddis ch => Sys2Proof.Machine.execSpddis ch s
  | .spdrev ch b => Sys2Proof.Machine.execSpdrev ch b s
  | .spdfwd ch b => Sys2Proof.Machine.execSpdfwd ch b s

end Sys2Proof.Machine
end

