-- ==== Sys2Proof/Machine/Cycle.lean ====
section
/-! DEFINITION. What one step does in each PHASE (R20, R70, R113), with the resets that cut it (R133), and how a
table word is placed where the next step takes it. -/

namespace Sys2Proof.Machine

/-- The sequence a reset may cut, for each instruction. -/
def script : Instr → List Action
  | .nop => scriptNop
  | .ver => scriptVer
  | .sel0 => scriptSel0
  | .sel1 => scriptSel1
  | .upd => scriptUpd
  | .nopu b => scriptNopu b
  | .spdnop ch => scriptSpdnop ch
  | .spddis ch => scriptSpddis ch
  | .spdrev ch b => scriptSpdrev ch b
  | .spdfwd ch b => scriptSpdfwd ch b

/-- `step(b)` (R70) on the state whose input `b` has been taken: the decoded instruction whole, or cut by the reset
that falls inside it (R133). -/
def stepByte (b : Byte) (s : State) : Host.Outcome State Fault Refusal :=
  match cutting s.inputs with
  | some (n, kind, rest) => .next (performCut n kind (script (decode s.mode b)) { s with inputs := rest })
  | none => exec (decode s.mode b) s

/-- The boot sequence (R113), whole or cut by the reset that falls inside it (R133, R135). It takes no byte. -/
def stepBoot (s : State) : Host.Outcome State Fault Refusal :=
  match cutting s.inputs with
  | some (n, kind, rest) => .next (performCut n kind (bootScript s.sent) { s with inputs := rest })
  | none => .next (perform (bootScript s.sent) s)

/-- The read loop (R79): a byte makes a step, a reset is taken, and with neither the block waits. -/
def stepRunning (s : State) : Host.Outcome State Fault Refusal :=
  match s.inputs with
  | [] => .next s
  | .rx b :: rest => stepByte b { s with inputs := rest }
  | .reset kind :: rest => .next (takeReset kind { s with inputs := rest })
  | .resetDuring _ kind :: rest => .next (takeReset kind { s with inputs := rest })

/-- Halted until the next reset (R112, R116): a byte is not consumed and waits at the link (R158), and with no input
nothing happens (log entry 3). -/
def stepHalted (s : State) : Host.Outcome State Fault Refusal :=
  match s.inputs with
  | [] => .next s
  | .rx b :: rest => .next { s with inputs := rest, unread := s.unread ++ [b] }
  | .reset kind :: rest => .next (takeReset kind { s with inputs := rest })
  | .resetDuring _ kind :: rest => .next (takeReset kind { s with inputs := rest })

/-- The inputs behind a byte that is placed in front of them: a reset at their head was to fall at rest, and still
does. -/
def atRest : List Input → List Input
  | .resetDuring _ kind :: rest => .reset kind :: rest
  | rest => rest

/-- MODE for a table word: its mode bits where they are a state's (R55), else as it was. -/
def tableWordMode (nbits w : Nat) (m : Mode) : Mode :=
  match modeOfBits (wordModeBits (BitVec.ofNat 10 (tableWordBits nbits w))) with
  | .ok m' => m'
  | .error _ => m

/-- The read loop, with a table word's byte the next input and its mode bits in MODE (log entry 9). -/
def placeTableWord (nbits w : Nat) (s : State) : State :=
  { s with
    mode := tableWordMode nbits w s.mode
    phase := .running
    inputs := .rx (wordByte (BitVec.ofNat 10 (tableWordBits nbits w))) :: atRest s.inputs }

end Sys2Proof.Machine
end

