-- ==== Sys2Proof/Machine/Step.lean ====
section
/-! DEFINITION. The step function and the placing of a table word. -/

namespace Sys2Proof.Machine

/-- One step: the block's whole reaction to its next input event, or the boot sequence after a reset. -/
def step (s : State) : Host.Outcome State Fault Refusal :=
  match s.phase with
  | .bootCheck => stepBoot s
  | .running => stepRunning s
  | .awaitReset => stepHalted s
  | .updateMode => stepHalted s

/-- `s` with a table word where `step` takes its next instruction: the block runs (R20), MODE is the word's, and the
word's byte is the next input. -/
def State.withFetchWord (s : State) (nbits w : Nat) : State := placeTableWord nbits w s

end Sys2Proof.Machine
end

