-- ==== Sys2Proof/Machine/Pseudo.lean ====
section
/-! DEFINITION. The pseudo-instructions of R60 and their expansions into bytes. -/

namespace Sys2Proof.Machine

/-- The pseudo-instructions of R60. -/
inductive Pseudo
  | speed (ch : Channel) (b : Byte)
  | drive (ch : Channel) (s : Int)
  | disable (ch : Channel)
  | resync
  deriving DecidableEq, Repr

/-- The restriction column of R60: `s` in -126 to 127. -/
def Pseudo.allowed : Pseudo → Bool
  | .speed _ _ => true
  | .drive _ s => -126 ≤ s && s ≤ 127
  | .disable _ => true
  | .resync => true

/-- The byte `0x02 + ch` that selects a channel (R60). -/
def selectByte (ch : Channel) : Byte := BitVec.ofNat 8 (2 + ch.val)

/-- The expansion column of R60. -/
def Pseudo.expand : Pseudo → List Byte
  | .speed ch b => [selectByte ch, b]
  | .drive ch s => [selectByte ch, BitVec.ofInt 8 (s + 128)]
  | .disable ch => [selectByte ch, 1]
  | .resync => [0]

end Sys2Proof.Machine
end

