-- ==== Sys2Proof/Machine/Table.lean ====
section
/-! DEFINITION. The opcode table of R55, row by row as spec/opcode_table.json lists it. The decoder does not use
it: that the two agree is a statement. -/

namespace Sys2Proof

/-- The two formats of R51. -/
inductive Format
  | cc
  | sb
  deriving DecidableEq, Repr

/-- One row: its format, its pattern on the byte and its mnemonic. -/
structure Row where
  mnemonic : String
  format : Format
  pattern : Byte
  mask : Byte
  deriving DecidableEq, Repr

/-- The format MODE selects (R51). -/
def Mode.format : Mode → Format
  | .idle => .cc
  | .awaitingSpeed _ => .sb

/-- R55: "A row selects a byte `b` when `MODE` is the row's mode and `(b AND mask) = match`". -/
def Row.selects (r : Row) (m : Mode) (b : Byte) : Bool :=
  r.format == m.format && (b &&& r.mask) == r.pattern

/-- The twelve rows of the Command Code format. -/
def ccRows : List Row := [
  ⟨"NOP", .cc, 0x00, 0xFF⟩,
  ⟨"VER", .cc, 0x01, 0xFF⟩,
  ⟨"SEL0", .cc, 0x02, 0xFF⟩,
  ⟨"SEL1", .cc, 0x03, 0xFF⟩,
  ⟨"UPD", .cc, 0x04, 0xFF⟩,
  ⟨"NOPU", .cc, 0x05, 0xFF⟩,
  ⟨"NOPU", .cc, 0x06, 0xFE⟩,
  ⟨"NOPU", .cc, 0x08, 0xF8⟩,
  ⟨"NOPU", .cc, 0x10, 0xF0⟩,
  ⟨"NOPU", .cc, 0x20, 0xE0⟩,
  ⟨"NOPU", .cc, 0x40, 0xC0⟩,
  ⟨"NOPU", .cc, 0x80, 0x80⟩]

/-- The nine rows of the Speed Byte format. -/
def sbRows : List Row := [
  ⟨"SPDNOP", .sb, 0x00, 0xFF⟩,
  ⟨"SPDDIS", .sb, 0x01, 0xFF⟩,
  ⟨"SPDREV", .sb, 0x02, 0xFE⟩,
  ⟨"SPDREV", .sb, 0x04, 0xFC⟩,
  ⟨"SPDREV", .sb, 0x08, 0xF8⟩,
  ⟨"SPDREV", .sb, 0x10, 0xF0⟩,
  ⟨"SPDREV", .sb, 0x20, 0xE0⟩,
  ⟨"SPDREV", .sb, 0x40, 0xC0⟩,
  ⟨"SPDFWD", .sb, 0x80, 0x80⟩]

/-- The 21 rows. -/
def opcodeTable : List Row := ccRows ++ sbRows

/-- The table's name of an instruction. -/
def Instr.mnemonic : Instr → String
  | .nop => "NOP"
  | .ver => "VER"
  | .sel0 => "SEL0"
  | .sel1 => "SEL1"
  | .upd => "UPD"
  | .nopu _ => "NOPU"
  | .spdnop _ => "SPDNOP"
  | .spddis _ => "SPDDIS"
  | .spdrev _ _ => "SPDREV"
  | .spdfwd _ _ => "SPDFWD"

end Sys2Proof
end

