-- ==== Sys2Proof/Safety.lean ====
section
/-! DEFINITION. The terms the statements use: a byte that makes a whole step, the events a step emits, and the
invariant of the states at rest (R166). -/

namespace Sys2Proof.Machine

/-- The block runs, `b` is the next input, and no reset falls inside its step. -/
def ByteReady (s : State) (b : Byte) (rest : List Input) : Prop :=
  s.phase = .running ∧ s.inputs = .rx b :: rest ∧ cutting rest = none

/-- `s` steps to `t` and emits exactly `evs`, in this order. -/
def StepEmits (s t : State) (evs : List OutEvent) : Prop :=
  step s = .next t ∧ t.trace = s.trace ++ evs

/-- The channel a driver event names (R4). -/
def eventChannel : OutEvent → Option Channel
  | .txVersionLine => none
  | .txUpdateNotice => none
  | .drvDisable ch => some ch
  | .drvEnable ch => some ch
  | .drvSetDirection ch _ => some ch
  | .drvSetMagnitude ch _ => some ch
  | .memRead _ _ _ => none
  | .memWrite _ _ _ => none
  | .resetRequest => none
  | .chainLoad => none
  | .startupInit => none

/-- Whether an event reads the sentinel cell. -/
def isMemRead : OutEvent → Bool
  | .memRead _ _ _ => true
  | _ => false

/-- A reset is the next input. -/
def ResetNext (s : State) (kind : ResetKind) (rest : List Input) : Prop :=
  s.inputs = .reset kind :: rest ∨ ∃ n, s.inputs = .resetDuring n kind :: rest

/-- The invariant of R166 on PHASE, MODE and SENT; the last row, on the bytes the block has not taken, is the
model's own (log entry 8). A state of the model is at rest, or a reset has just been taken. -/
structure RestInv (s : State) : Prop where
  idle_unless_running : s.phase ≠ .running → s.mode = .idle
  running_not_magic : s.phase = .running → s.sent ≠ Config.MAGIC
  awaitReset_magic : s.phase = .awaitReset → s.sent = Config.MAGIC
  none_unread : s.phase = .running ∨ s.phase = .bootCheck → s.unread = []

end Sys2Proof.Machine
end

