-- ==== Sys2Proof/Certificates/Slice0/Obligations.lean ====
section
/-! DEFINITION. The statements for the provers, each after the rules of spec/ it rests on. -/

open Sys2Proof Sys2Proof.Machine

/-! ### Encoding -/

/-- R55, R56: every well-formed instruction is what its decode word decodes to. -/
def Obligations.DecodeEncodeRoundTrip : Prop :=
  ∀ i : Instr, i.wellFormed = true → decodeWord (encode i) = .ok i

/-- R55, R56: a decode word is refused exactly when its mode bits are no state; else it stands for a well-formed
instruction, which encodes back to it. -/
def Obligations.DecodedWordEncodesBack : Prop :=
  ∀ w : DecodeWord,
    (wordModeBits w = 0b01 ∧ decodeWord w = .error .modeNotAState) ∨
    (wordModeBits w ≠ 0b01 ∧ ∃ i, decodeWord w = .ok i ∧ i.wellFormed = true ∧ encode i = w)

/-- R55: exactly one row of the opcode table selects a byte in a MODE, and it is the decoded instruction's. -/
def Obligations.ExactlyOneTableRowPerByte : Prop :=
  ∀ (m : Mode) (b : Byte),
    (opcodeTable.filter (fun r => r.selects m b)).map (fun r => r.mnemonic) = [(decode m b).mnemonic]

/-- R56: words written out bit by bit (mode bits, then the byte), one for each mnemonic. -/
def Obligations.WrittenOutWordsDecode : Prop :=
  decodeWord 0b0000000000 = .ok .nop ∧
  decodeWord 0b0000000001 = .ok .ver ∧
  decodeWord 0b0000000010 = .ok .sel0 ∧
  decodeWord 0b0000000011 = .ok .sel1 ∧
  decodeWord 0b0000000100 = .ok .upd ∧
  decodeWord 0b0010000100 = .ok (.nopu 0b10000100) ∧
  decodeWord 0b1000000000 = .ok (.spdnop 0) ∧
  decodeWord 0b1100000001 = .ok (.spddis 1) ∧
  decodeWord 0b1000000101 = .ok (.spdrev 0 0b00000101) ∧
  decodeWord 0b1111001000 = .ok (.spdfwd 1 0b11001000)

/-! ### The step function -/

/-- R70, R35, R50: a step takes the next byte off the stream and is `exec` of the instruction decoded under MODE. -/
def Obligations.StepRunsDecodedByte : Prop :=
  ∀ (s : State) (b : Byte) (rest : List Input), ByteReady s b rest →
    step s = exec (decode s.mode b) { s with inputs := rest }

/-- R130: a running block answers a next state for every byte, cut by a reset or not, and for every reset; so does
every instruction that some byte decodes to, in every state. -/
def Obligations.RunningBlockHasNoFault : Prop :=
  (∀ (s : State) (i : Input) (rest : List Input), s.phase = .running → s.inputs = i :: rest →
    ∃ t, step s = .next t) ∧
  ∀ (i : Instr) (s : State), i.wellFormed = true → ∃ t, exec i s = .next t

/-- Every step in every PHASE, and every instruction term in every state, answers a next state. For a block that waits
or is halted the next state is the model's choice (log entries 3 and 8), and so is a next state for a term that no byte
decodes to (log entry 13). -/
def Obligations.StepAlwaysAnswersNext : Prop :=
  (∀ s : State, ∃ t, step s = .next t) ∧ ∀ (i : Instr) (s : State), ∃ t, exec i s = .next t

/-- R5: a step only appends to the output trace. -/
def Obligations.TraceOnlyGrows : Prop :=
  ∀ s t : State, step s = .next t → ∃ evs, StepEmits s t evs

/-- R81: the transition table, row by row, each with everything that stays. -/
def Obligations.TransitionTableHolds : Prop :=
  ∀ (s : State) (b : Byte) (rest : List Input), ByteReady s b rest →
    (s.mode = .idle →
      (b = 0x00 → step s = .next { s with inputs := rest }) ∧
      (b = 0x01 → step s = .next { s with inputs := rest, trace := s.trace ++ [.txVersionLine] }) ∧
      (b = 0x02 → step s = .next { s with inputs := rest, mode := .awaitingSpeed 0 }) ∧
      (b = 0x03 → step s = .next { s with inputs := rest, mode := .awaitingSpeed 1 }) ∧
      (b = 0x04 → step s = .next { s with
        inputs := rest, phase := .awaitReset, sent := Config.MAGIC,
        trace := s.trace ++ [.txUpdateNotice, .memWrite Config.SENTINEL_ADDR 4 Config.MAGIC, .resetRequest] }) ∧
      (5 ≤ b.toNat → step s = .next { s with inputs := rest }) ∧
      (∀ t, step s = .next t → (t.mode ≠ .idle ↔ b = 0x02 ∨ b = 0x03) ∧ (t.phase ≠ .running ↔ b = 0x04))) ∧
    (∀ ch, s.mode = .awaitingSpeed ch →
      (b = 0x00 → step s = .next { s with inputs := rest, mode := .idle }) ∧
      (b = 0x01 → step s = .next { s with
        inputs := rest, mode := .idle, trace := s.trace ++ [.drvDisable ch] }) ∧
      (2 ≤ b.toNat → b.toNat ≤ 127 → step s = .next { s with
        inputs := rest, mode := .idle,
        trace := s.trace ++ [.drvEnable ch, .drvSetDirection ch .reverse, .drvSetMagnitude ch (128 - b.toNat)] }) ∧
      (128 ≤ b.toNat → step s = .next { s with
        inputs := rest, mode := .idle,
        trace := s.trace ++ [.drvEnable ch, .drvSetDirection ch .forward, .drvSetMagnitude ch (b.toNat - 128)] }) ∧
      (∀ t, step s = .next t → t.mode = .idle))

/-- R77: any number of 0 bytes, from any MODE, lead to `Idle` and stay there, and do nothing else. -/
def Obligations.ZeroBytesResynchronise : Prop :=
  ∀ (n : Nat) (s : State) (rest : List Input), s.phase = .running → cutting rest = none →
    s.inputs = List.replicate (n + 1) (.rx 0) ++ rest →
    Host.Core.run Sys2Proof.core (n + 1) s = .next { s with inputs := rest, mode := .idle }

/-- R79, R161: with no byte and no reset the block waits for ever, in every MODE, and nothing changes. That a wait is
a step to the same state is the model's choice (log entry 3). -/
def Obligations.WaitsWithoutTimeout : Prop :=
  ∀ (n : Nat) (s : State), s.phase = .running → s.inputs = [] → Host.Core.run Sys2Proof.core n s = .next s

/-- R81, R79: from a pending selection a step either waits or goes back to `Idle`. -/
def Obligations.SelectionWaitsOrIsConsumed : Prop :=
  ∀ (s t : State) (ch : Channel), s.phase = .running → s.mode = .awaitingSpeed ch → step s = .next t →
    (s.inputs = [] ∧ t = s) ∨ t.mode = .idle

/-! ### The instructions of Mode Idle -/

/-- R71. -/
def Obligations.NopChangesNothing : Prop :=
  decode .idle 0x00 = .nop ∧
  (∀ s : State, exec .nop s = .next { s with mode := .idle }) ∧
  ∀ s : State, s.mode = .idle → exec .nop s = .next s

/-- R72. -/
def Obligations.VerEmitsVersionLine : Prop :=
  decode .idle 0x01 = .ver ∧
  serialBytes .txVersionLine = Config.VERSION_LINE ∧
  (∀ ch, decode (.awaitingSpeed ch) 0x01 = .spddis ch) ∧
  (∀ s : State, exec .ver s = .next { s with mode := .idle, trace := s.trace ++ [.txVersionLine] }) ∧
  ∀ s : State, s.mode = .idle → exec .ver s = .next { s with trace := s.trace ++ [.txVersionLine] }

/-- R73, R74: a selection does nothing to its channel, and the next byte is a Speed Byte for it. -/
def Obligations.SelSelectsChannel : Prop :=
  decode .idle 0x02 = .sel0 ∧ decode .idle 0x03 = .sel1 ∧
  (∀ s : State, exec .sel0 s = .next { s with mode := .awaitingSpeed 0 }) ∧
  (∀ s : State, exec .sel1 s = .next { s with mode := .awaitingSpeed 1 }) ∧
  (∀ b, (decode (.awaitingSpeed 0) b).mode = .awaitingSpeed 0) ∧
  ∀ b, (decode (.awaitingSpeed 1) b).mode = .awaitingSpeed 1

/-- R75, with `enterUpdateMode` (R110): notice, sentinel write, reset request, in this order; a byte offered after
it changes nothing in the block and makes it emit nothing. That offering a byte to the halted block is a step, where the
spec has no enabled step, and that the byte is left unread is the model's choice (log entries 3 and 8). -/
def Obligations.UpdEntersUpdateMode : Prop :=
  decode .idle 0x04 = .upd ∧
  (∀ ch, decode (.awaitingSpeed ch) 0x04 = .spdrev ch 0x04) ∧
  ∀ s : State, ∃ t, exec .upd s = .next t ∧
    t = { s with
      phase := .awaitReset, sent := Config.MAGIC,
      trace := s.trace ++ [.txUpdateNotice, .memWrite Config.SENTINEL_ADDR 4 Config.MAGIC, .resetRequest] } ∧
    ∀ b rest, ∃ u, step { t with inputs := .rx b :: rest } = .next u ∧
      u.phase = .awaitReset ∧ u.mode = t.mode ∧ u.sent = t.sent ∧ u.trace = t.trace

/-- R76: every byte from 0x05 to 0xFF is as `NOP`. -/
def Obligations.NopuActsAsNop : Prop :=
  ∀ b : Byte, 5 ≤ b.toNat →
    decode .idle b = .nopu b ∧
    (∀ s : State, exec (.nopu b) s = .next { s with mode := .idle }) ∧
    (∀ s : State, exec (.nopu b) s = exec .nop s) ∧
    ∀ s : State, s.mode = .idle → exec (.nopu b) s = .next s

/-! ### The instructions of Mode AwaitingSpeed -/

/-- R91: no event at all; only the selection is consumed. -/
def Obligations.SpdnopSuppresses : Prop :=
  ∀ ch : Channel, decode (.awaitingSpeed ch) 0x00 = .spdnop ch ∧
    ∀ s : State, exec (.spdnop ch) s = .next { s with mode := .idle }

/-- R93: `DrvDisable(ch)` and nothing else. -/
def Obligations.SpddisDisablesOnly : Prop :=
  ∀ ch : Channel, decode (.awaitingSpeed ch) 0x01 = .spddis ch ∧
    ∀ s : State, exec (.spddis ch) s = .next { s with mode := .idle, trace := s.trace ++ [.drvDisable ch] }

/-- R94: the reverse drive, its magnitude and its range. -/
def Obligations.SpdrevDrivesReverse : Prop :=
  ∀ (ch : Channel) (b : Byte), 2 ≤ b.toNat → b.toNat ≤ 127 →
    decode (.awaitingSpeed ch) b = .spdrev ch b ∧
    (∀ s : State, exec (.spdrev ch b) s = .next { s with
      mode := .idle,
      trace := s.trace ++ [.drvEnable ch, .drvSetDirection ch .reverse, .drvSetMagnitude ch (128 - b.toNat)] }) ∧
    ((b.toNat : Int) - 128).natAbs = 128 - b.toNat ∧ 1 ≤ 128 - b.toNat ∧ 128 - b.toNat ≤ 126

/-- R95: the forward drive, its magnitude and its range; 0x80 drives at magnitude 0. -/
def Obligations.SpdfwdDrivesForward : Prop :=
  ∀ (ch : Channel) (b : Byte), 128 ≤ b.toNat →
    decode (.awaitingSpeed ch) b = .spdfwd ch b ∧
    (∀ s : State, exec (.spdfwd ch b) s = .next { s with
      mode := .idle,
      trace := s.trace ++ [.drvEnable ch, .drvSetDirection ch .forward, .drvSetMagnitude ch (b.toNat - 128)] }) ∧
    ((b.toNat : Int) - 128).natAbs = b.toNat - 128 ∧ b.toNat - 128 = (b.extractLsb' 0 7).toNat ∧
    b.toNat - 128 ≤ 127 ∧ (b.toNat - 128 = 0 ↔ b = 0x80)

/-! ### The Command Translator and its arithmetic -/

/-- R90: `apply` is the given algorithm, and the steps in `AwaitingSpeed(ch)` on a byte other than 0 emit its events
and return to `Idle`. -/
def Obligations.TranslatorMatchesSpeedBytes : Prop :=
  ∀ (ch : Channel) (b : Byte), b ≠ 0 → ∃ evs, apply ch b = some evs ∧
    (b = 1 → evs = [.drvDisable ch]) ∧
    (b ≠ 1 → (b.toNat : Int) - 128 < 0 →
      evs = [.drvEnable ch, .drvSetDirection ch .reverse,
        .drvSetMagnitude ch ((b.toNat : Int) - 128).natAbs]) ∧
    (b ≠ 1 → ¬ (b.toNat : Int) - 128 < 0 →
      evs = [.drvEnable ch, .drvSetDirection ch .forward,
        .drvSetMagnitude ch ((b.toNat : Int) - 128).natAbs]) ∧
    ∀ (s : State) (rest : List Input), ByteReady s b rest → s.mode = .awaitingSpeed ch →
      step s = .next { s with inputs := rest, mode := .idle, trace := s.trace ++ evs }

/-- R92: `apply` has no meaning at byte 0, and the step at byte 0 emits nothing. -/
def Obligations.TranslatorHasNoMeaningAtZero : Prop :=
  ∀ ch : Channel, (∀ b, apply ch b = none ↔ b = 0) ∧
    ∀ (s : State) (rest : List Input), ByteReady s 0 rest → s.mode = .awaitingSpeed ch →
      step s = .next { s with inputs := rest, mode := .idle }

/-- R54: the operand of a Speed Byte, in the arithmetic and in the bit-level forms. -/
def Obligations.SpeedOperandForms : Prop :=
  ∀ b : Byte, b ≠ 0 → b ≠ 1 →
    signed b = (b.toNat : Int) - 128 ∧ -126 ≤ signed b ∧ signed b ≤ 127 ∧
    direction b = (if signed b < 0 then .reverse else .forward) ∧
    magnitude b = (signed b).natAbs ∧
    signed b = (b ^^^ 0x80#8).toInt ∧
    (direction b = .reverse ↔ b.getLsbD 7 = false) ∧
    (b.getLsbD 7 = true → magnitude b = (b.extractLsb' 0 7).toNat) ∧
    (b.getLsbD 7 = false → magnitude b = 128 - (b.extractLsb' 0 7).toNat)

/-- R96: direction and magnitude determine the byte, 0x80 alone has magnitude 0, and `signed` grows with the byte. -/
def Obligations.SpeedByteMapOneToOne : Prop :=
  ∀ b c : Byte, 2 ≤ b.toNat → 2 ≤ c.toNat →
    (direction b = direction c → magnitude b = magnitude c → b = c) ∧
    (magnitude b = 0 ↔ b = 0x80) ∧
    (c.toNat = b.toNat + 1 → signed c = signed b + 1)

/-- R98: the translator's events, and every driver event of any step, are for the selected channel. -/
def Obligations.DriverEventsOnSelectedChannel : Prop :=
  (∀ (ch : Channel) (b : Byte) (evs : List OutEvent), apply ch b = some evs → ∀ e ∈ evs, eventChannel e = some ch) ∧
  ∀ (s t : State) (evs : List OutEvent), StepEmits s t evs →
    ∀ e ∈ evs, ∀ ch, eventChannel e = some ch → s.phase = .running ∧ s.mode = .awaitingSpeed ch

/-- R96, R166: a magnitude that is emitted lies in 0 to 127, and is 0 only in a forward drive. -/
def Obligations.EmittedMagnitudesInRange : Prop :=
  ∀ (s t : State) (evs : List OutEvent), StepEmits s t evs →
    ∀ ch m, OutEvent.drvSetMagnitude ch m ∈ evs →
      m ≤ 127 ∧ OutEvent.drvEnable ch ∈ evs ∧ (m = 0 → OutEvent.drvSetDirection ch .forward ∈ evs)

/-- R80: in `AwaitingSpeed(ch)` every byte decodes to a Speed Byte command of `ch`, and a whole step on it emits what
`apply` gives (nothing for byte 0) and consumes the selection; bytes 1 to 4, Command Codes in `Idle`, are written out. In
`Idle` every byte decodes to a Command Code. No step, cut by a reset or not, emits an event of the other format. -/
def Obligations.NoCommandCodeWhileAwaiting : Prop :=
  (∀ (ch : Channel) (b : Byte),
    decode (.awaitingSpeed ch) b ∈ [.spdnop ch, .spddis ch, .spdrev ch b, .spdfwd ch b] ∧
    ∀ (s : State) (rest : List Input), ByteReady s b rest → s.mode = .awaitingSpeed ch →
      ∃ evs, (b = 0 ∧ evs = [] ∨ b ≠ 0 ∧ apply ch b = some evs) ∧
        step s = .next { s with inputs := rest, mode := .idle, trace := s.trace ++ evs }) ∧
  (∀ ch : Channel,
    apply ch 1 = some [.drvDisable ch] ∧
    apply ch 2 = some [.drvEnable ch, .drvSetDirection ch .reverse, .drvSetMagnitude ch 126] ∧
    apply ch 3 = some [.drvEnable ch, .drvSetDirection ch .reverse, .drvSetMagnitude ch 125] ∧
    apply ch 4 = some [.drvEnable ch, .drvSetDirection ch .reverse, .drvSetMagnitude ch 124]) ∧
  (∀ b : Byte, decode .idle b ∈ [.nop, .ver, .sel0, .sel1, .upd, .nopu b]) ∧
  ∀ (s t : State) (evs : List OutEvent), s.phase = .running → StepEmits s t evs →
    (∀ ch, s.mode = .awaitingSpeed ch → ∀ e ∈ evs, eventChannel e = some ch) ∧
    (s.mode = .idle → ∀ e ∈ evs, eventChannel e = none)

/-- R166, R78: a step that no reset cuts emits 0, 1 or 3 events. -/
def Obligations.WholeStepEmitsZeroOneOrThree : Prop :=
  ∀ (s t : State) (b : Byte) (rest : List Input) (evs : List OutEvent), ByteReady s b rest → StepEmits s t evs →
    evs.length = 0 ∨ evs.length = 1 ∨ evs.length = 3

/-- R36: two events hand bytes to the Serial Link, and only `VER` and `UPD` emit them, once each. -/
def Obligations.OnlyVerAndUpdTransmit : Prop :=
  serialBytes .txVersionLine = Config.VERSION_LINE ∧ serialBytes .txUpdateNotice = Config.UPDATE_NOTICE ∧
  (∀ e, e ≠ .txVersionLine → e ≠ .txUpdateNotice → serialBytes e = []) ∧
  ∀ (s t : State) (evs : List OutEvent), StepEmits s t evs →
    (OutEvent.txVersionLine ∈ evs →
      s.phase = .running ∧ s.mode = .idle ∧ (∃ rest, s.inputs = .rx 1 :: rest) ∧ evs = [.txVersionLine]) ∧
    (OutEvent.txUpdateNotice ∈ evs →
      s.phase = .running ∧ s.mode = .idle ∧ (∃ rest, s.inputs = .rx 4 :: rest) ∧
      evs.count .txUpdateNotice = 1 ∧ OutEvent.txVersionLine ∉ evs)

/-! ### The sentinel cell, boot and reset -/

/-- R113, R115, R117: the whole boot sequence on either path. -/
def Obligations.BootChecksSentinel : Prop :=
  ∀ s : State, s.phase = .bootCheck → cutting s.inputs = none →
    (s.sent = Config.MAGIC → step s = .next { s with
      sent := 0, phase := .updateMode,
      trace := s.trace ++ [.memRead Config.SENTINEL_ADDR 4 Config.MAGIC, .memWrite Config.SENTINEL_ADDR 4 0,
        .chainLoad] }) ∧
    (s.sent ≠ Config.MAGIC → step s = .next { s with
      phase := .running, trace := s.trace ++ [.memRead Config.SENTINEL_ADDR 4 s.sent, .startupInit] })

/-- R114, R153: `StartupInit` and `ChainLoad` are emitted by the boot sequence alone, each on its own path only, and
the boot sequence's first event is its read of the cell. -/
def Obligations.StartupOnlyAfterCheck : Prop :=
  ∀ (s t : State) (evs : List OutEvent), StepEmits s t evs →
    (OutEvent.startupInit ∈ evs → s.phase = .bootCheck ∧ s.sent ≠ Config.MAGIC ∧ OutEvent.chainLoad ∉ evs) ∧
    (OutEvent.chainLoad ∈ evs → s.phase = .bootCheck ∧ s.sent = Config.MAGIC ∧ OutEvent.startupInit ∉ evs) ∧
    (s.phase = .bootCheck → ∀ e more, evs = e :: more →
      e = .memRead Config.SENTINEL_ADDR 4 s.sent ∧ evs.count .startupInit ≤ 1)

/-- R22: the three accesses to SENT and nothing else; while the block stays `Running`, SENT keeps its value. -/
def Obligations.SentinelAccessedAtThreePlaces : Prop :=
  (∀ (s t : State) (evs : List OutEvent), StepEmits s t evs →
    (∀ a n v, OutEvent.memRead a n v ∈ evs → s.phase = .bootCheck ∧ a = Config.SENTINEL_ADDR ∧ n = 4 ∧ v = s.sent) ∧
    evs.countP isMemRead ≤ 1 ∧
    (s.phase = .bootCheck → cutting s.inputs = none → evs.countP isMemRead = 1) ∧
    (∀ a n v, OutEvent.memWrite a n v ∈ evs → a = Config.SENTINEL_ADDR ∧ n = 4 ∧
      ((v = 0 ∧ s.phase = .bootCheck ∧ s.sent = Config.MAGIC) ∨
       (v = Config.MAGIC ∧ s.phase = .running ∧ s.mode = .idle ∧ ∃ rest, s.inputs = .rx 4 :: rest)))) ∧
  ∀ s t : State, step s = .next t → s.phase = .running → t.phase = .running → t.sent = s.sent

/-- R12: after every reset MODE is `Idle`, and what it was before has no influence. A state in `BootCheck` is one that a
reset has just led to. The last clause is about a reset taken at rest and a reset inside a boot sequence; a reset inside
a byte's step cuts the reaction that MODE selected. It compares two states with the same `draws`, so that their free
values are equal: that is the model's choice (log entries 4, 5 and 8). -/
def Obligations.ResetReturnsModeToIdle : Prop :=
  (∀ s t : State, step s = .next t → t.phase = .bootCheck → t.mode = .idle) ∧
  State.reset.mode = .idle ∧
  ∀ (s : State) (m : Mode) (kind : ResetKind) (rest : List Input),
    (s.phase ≠ .bootCheck ∧ ResetNext s kind rest) ∨
      (s.phase = .bootCheck ∧ ∃ n, s.inputs = .resetDuring n kind :: rest) →
    ∃ t, step s = .next t ∧ step { s with mode := m } = .next t

/-- R134, R150, R151, R25: taking a reset with nothing in progress. That SENT is drawn is the spec's; which draw it is, a
free value, and the opaque Boolean that says whether the update image preserves the cell are the model's choice (log
entries 4, 5 and 7), as are the clauses on `unread` and `inputs` (log entry 8). -/
def Obligations.ResetEntersBootCheck : Prop :=
  ∀ (s : State) (kind : ResetKind) (rest : List Input), s.phase ≠ .bootCheck → ResetNext s kind rest →
    ∃ t, step s = .next t ∧ t.mode = .idle ∧ t.phase = .bootCheck ∧ t.trace = s.trace ∧ t.unread = [] ∧
      (kind = .powerOn → t.sent = Config.drawnWord s.draws) ∧
      (kind = .warm → s.phase ≠ .updateMode → t.sent = s.sent) ∧
      (kind = .warm → s.phase = .updateMode →
        t.sent = if Config.UPDATE_IMAGE_PRESERVES_SENTINEL then s.sent else Config.drawnWord s.draws) ∧
      (s.unread = [] → t.inputs = rest)

/-- R133, with R119's last row, R151 and R24: a reset inside a step or a boot sequence keeps the first `n` events and
abandons the rest, cut and reset in one step (log entry 2). After a warm reset inside a step other than `UPD` SENT is as it was; after a power-on reset inside
any step or boot sequence it is drawn, and which draw it is, a free value, is the model's choice (log entries 4 and 5).
The warm resets inside `UPD` and inside a boot sequence have the statements UpdCutByReset and BootCutByReset. -/
def Obligations.ResetKeepsEmittedEvents : Prop :=
  (∀ (s t u : State) (b : Byte) (n : Nat) (kind : ResetKind) (rest : List Input), s.phase = .running →
    s.inputs = .rx b :: .resetDuring n kind :: rest → step s = .next t →
    step { s with inputs := [.rx b] } = .next u →
    ∃ evs, u.trace = s.trace ++ evs ∧ t.trace = s.trace ++ evs.take n ∧ t.mode = .idle ∧ t.phase = .bootCheck ∧
      (kind = .warm → decode s.mode b ≠ .upd → t.sent = s.sent) ∧
      (kind = .powerOn → t.sent = Config.drawnWord s.draws)) ∧
  ∀ (s t u : State) (n : Nat) (kind : ResetKind) (rest : List Input), s.phase = .bootCheck →
    s.inputs = .resetDuring n kind :: rest → step s = .next t →
    step { s with inputs := [] } = .next u →
    ∃ evs, u.trace = s.trace ++ evs ∧ t.trace = s.trace ++ evs.take n ∧ t.mode = .idle ∧ t.phase = .bootCheck ∧
      (kind = .powerOn → t.sent = Config.drawnWord s.draws)

/-- R119, R111: `UPD` cut by a warm reset finds update mode requested exactly if the sentinel write is among the
events that stand. That the cut and the reset are one step is the model's (log entry 2). -/
def Obligations.UpdCutByReset : Prop :=
  ∀ (s : State) (n : Nat) (rest : List Input), s.phase = .running → s.mode = .idle →
    s.inputs = .rx 4 :: .resetDuring n .warm :: rest →
    ∃ t, step s = .next t ∧ t.phase = .bootCheck ∧ t.mode = .idle ∧
      t.sent = (if n ≤ 1 then s.sent else Config.MAGIC) ∧
      t.trace = s.trace ++
        [OutEvent.txUpdateNotice, .memWrite Config.SENTINEL_ADDR 4 Config.MAGIC, .resetRequest].take n

/-- R135: the boot sequence cut by a second warm reset. Before the clear the request stands; between the clear and
`ChainLoad` it is lost; after `ChainLoad` the cell is a free value unless the instance preserves it. That the assignment
of PHASE goes with `ChainLoad`, so that a reset right behind it ends `UpdateMode`, is the model's inference (log entry
2); which draw the free value is, and the opaque Boolean, are its choice (log entries 5 and 7). -/
def Obligations.BootCutByReset : Prop :=
  ∀ (s : State) (n : Nat) (rest : List Input), s.phase = .bootCheck →
    s.inputs = .resetDuring n .warm :: rest →
    ∃ t, step s = .next t ∧ t.phase = .bootCheck ∧ t.mode = .idle ∧
      (s.sent ≠ Config.MAGIC → t.sent = s.sent) ∧
      (s.sent = Config.MAGIC → n ≤ 1 → t.sent = Config.MAGIC) ∧
      (s.sent = Config.MAGIC → n = 2 → t.sent = 0) ∧
      (s.sent = Config.MAGIC → 3 ≤ n →
        t.sent = if Config.UPDATE_IMAGE_PRESERVES_SENTINEL then 0 else Config.drawnWord s.draws)

/-- R118: the handshake, end to end, and the boot that later finds the cell still 0. -/
def Obligations.UpdateHandshakeTrace : Prop :=
  ∀ (s : State) (rest : List Input), s.phase = .running → s.mode = .idle → cutting rest = none →
    s.inputs = .rx 4 :: .reset .warm :: rest →
    ∃ t, Host.Core.run Sys2Proof.core 3 s = .next t ∧
      t.phase = .updateMode ∧ t.sent = 0 ∧ t.mode = .idle ∧
      t.trace = s.trace ++
        [.txUpdateNotice, .memWrite Config.SENTINEL_ADDR 4 Config.MAGIC, .resetRequest,
         .memRead Config.SENTINEL_ADDR 4 Config.MAGIC, .memWrite Config.SENTINEL_ADDR 4 0, .chainLoad] ∧
      ∀ u : State, u.phase = .bootCheck → u.sent = t.sent → cutting u.inputs = none →
        step u = .next { u with
          phase := .running, trace := u.trace ++ [.memRead Config.SENTINEL_ADDR 4 0, .startupInit] }

/-- R119's last row, R117, R12: a warm reset of a running block, at rest or inside a step other than `UPD`, leads back
to the read loop in `Idle`, the cell unmodified, whatever selection was pending; of a cut step's events the first `n`
stand. That the inputs behind the reset stay as they are and that `draws` rises by 1 is the model's choice (log
entries 1 and 5), and that a cut step and its reset are one step is its inference (log entry 2). -/
def Obligations.WarmResetOutsideUpdBootsNormally : Prop :=
  ∀ (s : State) (rest : List Input), RestInv s → s.phase = .running → cutting rest = none →
    (ResetNext s .warm rest →
      Host.Core.run Sys2Proof.core 2 s = .next { s with
        mode := .idle, inputs := rest, draws := s.draws + 1,
        trace := s.trace ++ [.memRead Config.SENTINEL_ADDR 4 s.sent, .startupInit] }) ∧
    ∀ (u : State) (b : Byte) (n : Nat), s.inputs = .rx b :: .resetDuring n .warm :: rest →
      decode s.mode b ≠ .upd → step { s with inputs := [.rx b] } = .next u →
      ∃ evs, u.trace = s.trace ++ evs ∧
        Host.Core.run Sys2Proof.core 2 s = .next { s with
          mode := .idle, inputs := rest, draws := s.draws + 1,
          trace := s.trace ++ evs.take n ++ [.memRead Config.SENTINEL_ADDR 4 s.sent, .startupInit] }

/-- R112, R116, R158: in `AwaitReset` and `UpdateMode` nothing happens but a reset. That a step without input and a step
that leaves a byte unread are steps, that neither draws, and that SENT is left alone inside `UpdateMode` until the draw
that R25 takes at the reset, is the model's choice (log entries 3, 5, 7 and 8). -/
def Obligations.HaltedUntilReset : Prop :=
  ∀ s t : State, s.phase = .awaitReset ∨ s.phase = .updateMode → step s = .next t →
    (t.phase = s.phase ∧ t.mode = s.mode ∧ t.sent = s.sent ∧ t.trace = s.trace ∧ t.draws = s.draws) ∨
    (∃ kind rest, ResetNext s kind rest ∧ t.phase = .bootCheck ∧ t.mode = .idle ∧ t.trace = s.trace)

/-- R20, R135: the ways PHASE changes. Without a reset only the boot sequence leaves `BootCheck`, and only `UPD`
leaves `Running`. That a cut reaction and its reset are one step is the model's (log entry 2). -/
def Obligations.PhaseChangesOnlyAsGiven : Prop :=
  ∀ s t : State, step s = .next t →
    (t.phase = s.phase ∧ s.phase ≠ .bootCheck) ∨
    (s.phase = .bootCheck ∧ (t.phase = .running ∨ t.phase = .updateMode)) ∨
    (s.phase = .running ∧ t.phase = .awaitReset ∧ s.mode = .idle ∧ ∃ rest, s.inputs = .rx 4 :: rest) ∨
    (t.phase = .bootCheck ∧ t.mode = .idle ∧
      ∃ kind rest, ResetNext s kind rest ∨ ∃ b n, s.inputs = .rx b :: .resetDuring n kind :: rest)

/-- R166: every step keeps the invariant of the states at rest. -/
def Obligations.StepKeepsRestInvariant : Prop :=
  ∀ s t : State, RestInv s → step s = .next t → RestInv t

/-- R29, R166: the state after reset meets the invariant. -/
def Obligations.ResetMeetsRestInvariant : Prop :=
  RestInv State.reset

/-- R29: the state immediately after a power-on reset; SENT is the first draw, a free value, and
which draw it is is the model's choice (log entries 4 and 5). -/
def Obligations.ResetStateAsGiven : Prop :=
  State.reset.mode = .idle ∧ State.reset.phase = .bootCheck ∧ State.reset.sent = Config.drawnWord 0

/-- R6, R32: what the parameters are bound by. -/
def Obligations.ParametersConstrained : Prop :=
  Config.MAGIC ≠ 0 ∧ Config.SENTINEL_ADDR % 4 = 0

/-! ### What a step may depend on -/

/-- R13: two runs that reach the same MODE, PHASE and SENT react identically to every later byte, whatever was
emitted, left unread or drawn before. That a block which waits or is halted has a next state, that a byte offered to a
halted block is left unread, and that SENT is left alone inside `UpdateMode`, so that the runs agree on it there, is the
model's choice (log entries 3, 7 and 8). -/
def Obligations.OnlyModePhaseSentMatter : Prop :=
  ∀ (n : Nat) (bytes : List Byte) (s s' : State), s.mode = s'.mode → s.phase = s'.phase → s.sent = s'.sent →
    s.inputs = bytes.map .rx → s'.inputs = bytes.map .rx →
    ∃ evs t t', Host.Core.run Sys2Proof.core n s = .next t ∧ Host.Core.run Sys2Proof.core n s' = .next t' ∧
      t.trace = s.trace ++ evs ∧ t'.trace = s'.trace ++ evs ∧
      t.mode = t'.mode ∧ t.phase = t'.phase ∧ t.sent = t'.sent

/-- R70: a step reads MODE and its byte and nothing else. -/
def Obligations.StepReadsModeAndByteOnly : Prop :=
  ∀ (s s' : State) (b : Byte) (rest rest' : List Input), ByteReady s b rest → ByteReady s' b rest' →
    s.mode = s'.mode →
    ∃ evs t t', StepEmits s t evs ∧ StepEmits s' t' evs ∧ t.mode = t'.mode ∧ t.phase = t'.phase ∧
      t.inputs = rest ∧ t'.inputs = rest'

/-! ### The pseudo-instructions -/

/-- R60, R163: `DRIVE ch, v`, for `v` in -126 to 127, sent to an idle block. -/
def Obligations.DriveDrivesAtSignedSpeed : Prop :=
  ∀ (s : State) (ch : Channel) (v : Int) (rest : List Input), s.phase = .running → s.mode = .idle →
    cutting rest = none → (Pseudo.drive ch v).allowed = true →
    s.inputs = (Pseudo.drive ch v).expand.map .rx ++ rest →
    Host.Core.run Sys2Proof.core 2 s = .next { s with
      inputs := rest,
      trace := s.trace ++ [.drvEnable ch, .drvSetDirection ch (if v < 0 then .reverse else .forward),
        .drvSetMagnitude ch v.natAbs] }

/-- R60: `SPEED ch, b` and `DISABLE ch` sent to an idle block, `RESYNC` in any MODE. -/
def Obligations.SpeedDisableResyncRun : Prop :=
  ∀ (s : State) (rest : List Input), s.phase = .running → cutting rest = none →
    (∀ ch b evs, s.mode = .idle → s.inputs = (Pseudo.speed ch b).expand.map .rx ++ rest →
      (b = 0 ∧ evs = []) ∨ apply ch b = some evs →
      Host.Core.run Sys2Proof.core 2 s = .next { s with inputs := rest, trace := s.trace ++ evs }) ∧
    (∀ ch, s.mode = .idle → s.inputs = (Pseudo.disable ch).expand.map .rx ++ rest →
      Host.Core.run Sys2Proof.core 2 s = .next { s with inputs := rest, trace := s.trace ++ [.drvDisable ch] }) ∧
    (s.inputs = Pseudo.resync.expand.map .rx ++ rest →
      Host.Core.run Sys2Proof.core 1 s = .next { s with inputs := rest, mode := .idle })
end

