-- ==== Sys2Proof/Laws/Decode.lean ====
section
/-! SUPPORT. The decoder and the encoder, field by field. -/

namespace Sys2Proof

/-- A decoded instruction is one of the MODE it was decoded in. -/
@[simp] theorem decode_mode (m : Mode) (b : Byte) : (decode m b).mode = m := by
  cases m <;> simp only [decode] <;> repeat' split
  all_goals rfl

/-- Decoding drops no bit of the byte. -/
@[simp] theorem decode_byte (m : Mode) (b : Byte) : (decode m b).byte = b := by
  cases m <;> simp only [decode] <;> repeat' split
  all_goals simp_all [Instr.byte]

theorem modeOfBits_modeBits (m : Mode) : modeOfBits (modeBits m) = .ok m := by
  cases m with
  | idle => rfl
  | awaitingSpeed ch => fin_cases ch <;> rfl

theorem wordByte_append (m : BitVec 2) (b : Byte) : wordByte (m ++ b) = b := by
  revert m b; decide +kernel

theorem wordModeBits_append (m : BitVec 2) (b : Byte) : wordModeBits (m ++ b) = m := by
  revert m b; decide +kernel

theorem append_fields (w : DecodeWord) : wordModeBits w ++ wordByte w = w := by
  revert w; decide +kernel

end Sys2Proof
end

