-- ==== Sys2Proof/Laws/State.lean ====
section
/-! SUPPORT. One lemma per field per update of State, true by rfl. -/

namespace Sys2Proof.Machine

@[simp] theorem State.emit_mode (s : State) (e : OutEvent) : (s.emit e).mode = s.mode := rfl
@[simp] theorem State.emit_phase (s : State) (e : OutEvent) : (s.emit e).phase = s.phase := rfl
@[simp] theorem State.emit_sent (s : State) (e : OutEvent) : (s.emit e).sent = s.sent := rfl
@[simp] theorem State.emit_trace (s : State) (e : OutEvent) : (s.emit e).trace = s.trace ++ [e] := rfl
@[simp] theorem State.emit_inputs (s : State) (e : OutEvent) : (s.emit e).inputs = s.inputs := rfl
@[simp] theorem State.emit_unread (s : State) (e : OutEvent) : (s.emit e).unread = s.unread := rfl
@[simp] theorem State.emit_draws (s : State) (e : OutEvent) : (s.emit e).draws = s.draws := rfl

@[simp] theorem State.setMode_mode (s : State) (m : Mode) : (s.setMode m).mode = m := rfl
@[simp] theorem State.setMode_phase (s : State) (m : Mode) : (s.setMode m).phase = s.phase := rfl
@[simp] theorem State.setMode_sent (s : State) (m : Mode) : (s.setMode m).sent = s.sent := rfl
@[simp] theorem State.setMode_trace (s : State) (m : Mode) : (s.setMode m).trace = s.trace := rfl
@[simp] theorem State.setMode_inputs (s : State) (m : Mode) : (s.setMode m).inputs = s.inputs := rfl
@[simp] theorem State.setMode_unread (s : State) (m : Mode) : (s.setMode m).unread = s.unread := rfl
@[simp] theorem State.setMode_draws (s : State) (m : Mode) : (s.setMode m).draws = s.draws := rfl

@[simp] theorem State.setPhase_mode (s : State) (p : Phase) : (s.setPhase p).mode = s.mode := rfl
@[simp] theorem State.setPhase_phase (s : State) (p : Phase) : (s.setPhase p).phase = p := rfl
@[simp] theorem State.setPhase_sent (s : State) (p : Phase) : (s.setPhase p).sent = s.sent := rfl
@[simp] theorem State.setPhase_trace (s : State) (p : Phase) : (s.setPhase p).trace = s.trace := rfl
@[simp] theorem State.setPhase_inputs (s : State) (p : Phase) : (s.setPhase p).inputs = s.inputs := rfl
@[simp] theorem State.setPhase_unread (s : State) (p : Phase) : (s.setPhase p).unread = s.unread := rfl
@[simp] theorem State.setPhase_draws (s : State) (p : Phase) : (s.setPhase p).draws = s.draws := rfl

@[simp] theorem State.readSent_mode (s : State) : (s.readSent).mode = s.mode := rfl
@[simp] theorem State.readSent_phase (s : State) : (s.readSent).phase = s.phase := rfl
@[simp] theorem State.readSent_sent (s : State) : (s.readSent).sent = s.sent := rfl
@[simp] theorem State.readSent_trace (s : State) : (s.readSent).trace = s.trace ++ [.memRead Config.SENTINEL_ADDR 4 s.sent] := rfl
@[simp] theorem State.readSent_inputs (s : State) : (s.readSent).inputs = s.inputs := rfl
@[simp] theorem State.readSent_unread (s : State) : (s.readSent).unread = s.unread := rfl
@[simp] theorem State.readSent_draws (s : State) : (s.readSent).draws = s.draws := rfl

@[simp] theorem State.writeSent_mode (s : State) (v : Word) : (s.writeSent v).mode = s.mode := rfl
@[simp] theorem State.writeSent_phase (s : State) (v : Word) : (s.writeSent v).phase = s.phase := rfl
@[simp] theorem State.writeSent_sent (s : State) (v : Word) : (s.writeSent v).sent = v := rfl
@[simp] theorem State.writeSent_trace (s : State) (v : Word) : (s.writeSent v).trace = s.trace ++ [.memWrite Config.SENTINEL_ADDR 4 v] := rfl
@[simp] theorem State.writeSent_inputs (s : State) (v : Word) : (s.writeSent v).inputs = s.inputs := rfl
@[simp] theorem State.writeSent_unread (s : State) (v : Word) : (s.writeSent v).unread = s.unread := rfl
@[simp] theorem State.writeSent_draws (s : State) (v : Word) : (s.writeSent v).draws = s.draws := rfl

@[simp] theorem takeReset_mode (s : State) (k : ResetKind) : (takeReset k s).mode = .idle := rfl
@[simp] theorem takeReset_phase (s : State) (k : ResetKind) : (takeReset k s).phase = .bootCheck := rfl
@[simp] theorem takeReset_sent (s : State) (k : ResetKind) : (takeReset k s).sent = sentAfterReset k s := rfl
@[simp] theorem takeReset_trace (s : State) (k : ResetKind) : (takeReset k s).trace = s.trace := rfl
@[simp] theorem takeReset_inputs (s : State) (k : ResetKind) : (takeReset k s).inputs = deliverLater (deliveredAfterReset s.draws s.unread) s.inputs := rfl
@[simp] theorem takeReset_unread (s : State) (k : ResetKind) : (takeReset k s).unread = [] := rfl
@[simp] theorem takeReset_draws (s : State) (k : ResetKind) : (takeReset k s).draws = s.draws + 1 := rfl

end Sys2Proof.Machine
end

