-- ==== Sys2Proof/Laws/Ops.lean ====
section
/-! SUPPORT. What the shared operations do, said once: sequences, cut sequences, the reset. -/

namespace Sys2Proof.Machine

theorem magic_ne_zero : Config.MAGIC ≠ 0 := by
  intro h
  have h' := congrArg BitVec.toNat h
  have := Config.magicIndex.isLt
  simp only [Config.MAGIC, BitVec.toNat_ofNat, BitVec.ofNat_eq_ofNat] at h'
  omega

/-- The events of a sequence that starts with `v` in SENT. -/
def scriptEvents : Word → List Action → List OutEvent
  | _, [] => []
  | v, .emit e :: as => e :: scriptEvents v as
  | v, .readSent :: as => .memRead Config.SENTINEL_ADDR 4 v :: scriptEvents v as
  | _, .writeSent w :: as => .memWrite Config.SENTINEL_ADDR 4 w :: scriptEvents w as
  | v, .setMode _ :: as => scriptEvents v as
  | v, .setPhase _ :: as => scriptEvents v as

@[simp] theorem perform_nil (s : State) : perform [] s = s := rfl

@[simp] theorem perform_cons (a : Action) (as : List Action) (s : State) :
    perform (a :: as) s = perform as (doAction a s) := rfl

theorem perform_append (as bs : List Action) (s : State) :
    perform (as ++ bs) s = perform bs (perform as s) := by
  induction as generalizing s with
  | nil => rfl
  | cons a as ih => simp [ih]

theorem perform_trace (as : List Action) (s : State) :
    (perform as s).trace = s.trace ++ scriptEvents s.sent as := by
  induction as generalizing s with
  | nil => simp [scriptEvents]
  | cons a as ih => cases a <;> simp [ih, doAction, scriptEvents]

/-- A sequence touches only MODE, PHASE, SENT and the trace. -/
theorem perform_inputs (as : List Action) (s : State) : (perform as s).inputs = s.inputs := by
  induction as generalizing s with
  | nil => rfl
  | cons a as ih => cases a <;> simp [ih, doAction]

theorem perform_unread (as : List Action) (s : State) : (perform as s).unread = s.unread := by
  induction as generalizing s with
  | nil => rfl
  | cons a as ih => cases a <;> simp [ih, doAction]

theorem perform_draws (as : List Action) (s : State) : (perform as s).draws = s.draws := by
  induction as generalizing s with
  | nil => rfl
  | cons a as ih => cases a <;> simp [ih, doAction]

/-- A sequence without a sentinel write leaves SENT alone. -/
theorem perform_sent (as : List Action) (s : State) (h : ∀ v, Action.writeSent v ∉ as) :
    (perform as s).sent = s.sent := by
  induction as generalizing s with
  | nil => rfl
  | cons a as ih =>
    have h' : ∀ v, Action.writeSent v ∉ as := fun v hv => h v (List.mem_cons_of_mem _ hv)
    cases a with
    | writeSent v => exact absurd List.mem_cons_self (h v)
    | _ => simp [ih _ h', doAction]

/-- A sequence that does not assign PHASE leaves it alone. -/
theorem perform_phase (as : List Action) (s : State) (h : ∀ p, Action.setPhase p ∉ as) :
    (perform as s).phase = s.phase := by
  induction as generalizing s with
  | nil => rfl
  | cons a as ih =>
    have h' : ∀ p, Action.setPhase p ∉ as := fun p hp => h p (List.mem_cons_of_mem _ hp)
    cases a with
    | setPhase p => exact absurd List.mem_cons_self (h p)
    | _ => simp [ih _ h', doAction]

/-- A cut only leaves lines out. -/
theorem cutAfter_sublist (n : Nat) (as : List Action) : (cutAfter n as).Sublist as := by
  induction as generalizing n with
  | nil => cases n <;> exact List.Sublist.slnil
  | cons a as ih =>
    cases ha : a.isEvent <;> cases n <;> simp [cutAfter, ha, ih]

@[simp] theorem sentAfterReset_powerOn (s : State) : sentAfterReset .powerOn s = Config.drawnWord s.draws := rfl

/-- A warm reset keeps the cell unless it ends UpdateMode (R21, R25). -/
theorem sentAfterReset_warm (s : State) (h : s.phase ≠ .updateMode) : sentAfterReset .warm s = s.sent := by
  simp [sentAfterReset, h]

/-- A cut sequence emits the first `n` of its events. -/
theorem scriptEvents_cutAfter (n : Nat) (v : Word) (as : List Action) :
    scriptEvents v (cutAfter n as) = (scriptEvents v as).take n := by
  induction as generalizing n v with
  | nil => simp [cutAfter, scriptEvents]
  | cons a as ih =>
    cases a <;> cases n <;> simp [cutAfter, Action.isEvent, scriptEvents, ih]

theorem performCut_trace (n : Nat) (k : ResetKind) (as : List Action) (s : State) :
    (performCut n k as s).trace = s.trace ++ (scriptEvents s.sent as).take n := by
  simp [performCut, perform_trace, scriptEvents_cutAfter]

/-- `enterUpdateMode()` as one update of the state (R110). -/
theorem perform_enterUpdateMode (s : State) :
    perform enterUpdateMode s = { s with
      phase := .awaitReset, sent := Config.MAGIC,
      trace := s.trace ++ [.txUpdateNotice, .memWrite Config.SENTINEL_ADDR 4 Config.MAGIC, .resetRequest] } := by
  simp [enterUpdateMode, doAction, State.emit, State.writeSent, State.setPhase]

/-- The boot sequence's events (R113). -/
theorem scriptEvents_boot (v : Word) :
    scriptEvents v (bootScript v) = .memRead Config.SENTINEL_ADDR 4 v ::
      (if v = Config.MAGIC then [.memWrite Config.SENTINEL_ADDR 4 0, .chainLoad] else [.startupInit]) := by
  unfold bootScript; split <;> rfl

/-- The MODE before a sequence that a reset cuts has no influence on the state after it (R12). -/
theorem takeReset_perform_mode (k : ResetKind) (m : Mode) (as : List Action) (s : State) :
    takeReset k (perform as { s with mode := m }) = takeReset k (perform as s) := by
  induction as generalizing s with
  | nil => rfl
  | cons a as ih =>
    cases a with
    | setMode m' => rfl
    | emit e => exact ih (s.emit e)
    | readSent => exact ih s.readSent
    | writeSent v => exact ih (s.writeSent v)
    | setPhase p => exact ih (s.setPhase p)

/-- SENT after a power-on reset that cuts a sequence: the next draw, whatever the sequence did. -/
theorem performCut_sent_powerOn (n : Nat) (as : List Action) (s : State) :
    (performCut n .powerOn as s).sent = Config.drawnWord s.draws := by
  simp [performCut, perform_draws]

/-- SENT after a warm reset that cuts a sequence which writes neither SENT nor PHASE: as it was. -/
theorem performCut_sent_warm (n : Nat) (as : List Action) (s : State) (hp : s.phase ≠ .updateMode)
    (hs : ∀ v, Action.writeSent v ∉ as) (ha : ∀ p, Action.setPhase p ∉ as) :
    (performCut n .warm as s).sent = s.sent := by
  have sub := cutAfter_sublist n as
  have hph := perform_phase _ s (fun p h => ha p (sub.subset h))
  rw [performCut, takeReset_sent, sentAfterReset_warm _ (by rwa [hph]),
    perform_sent _ _ (fun v h => hs v (sub.subset h))]

@[simp] theorem deliverLater_nil (is : List Input) : deliverLater [] is = is := by
  induction is with
  | nil => rfl
  | cons i is ih => cases i <;> simp [deliverLater, ih]

/-- Bytes kept for after a reset never stand before a reset that cuts the boot sequence. -/
theorem cutting_deliverLater (bs : List Byte) (is : List Input) (h : cutting is = none) :
    cutting (deliverLater bs is) = none := by
  cases is with
  | nil => cases bs <;> rfl
  | cons i is => cases i <;> cases bs <;> simp_all [cutting, deliverLater]

@[simp] theorem deliveredAfterReset_nil (n : Nat) : deliveredAfterReset n [] = [] := rfl

theorem cutting_eq_some {is rest : List Input} {n : Nat} {k : ResetKind} :
    cutting is = some (n, k, rest) ↔ is = .resetDuring n k :: rest := by
  cases is with
  | nil => simp [cutting]
  | cons i is => cases i <;> simp [cutting, and_assoc]

end Sys2Proof.Machine
end

