-- ==== Sys2Proof/Laws/PerInstr.lean ====
section
/-! SUPPORT. Family RowSelected: the byte an instruction is received as, in its MODE, is selected by a row of the
opcode table with the instruction's mnemonic. -/

namespace Sys2Proof.Laws.RowSelected

/-- Some row of the table, named after the instruction, selects its MODE and byte. -/
def Statement (i : Instr) : Prop :=
  i.wellFormed = true → opcodeTable.any (fun r => r.mnemonic == i.mnemonic && r.selects i.mode i.byte) = true

theorem nop : Statement .nop := fun _ => by decide
theorem ver : Statement .ver := fun _ => by decide
theorem sel0 : Statement .sel0 := fun _ => by decide
theorem sel1 : Statement .sel1 := fun _ => by decide
theorem upd : Statement .upd := fun _ => by decide
theorem nopu (b : Byte) : Statement (.nopu b) := by
  unfold Statement; revert b; decide +kernel
theorem spdnop (ch : Channel) : Statement (.spdnop ch) := fun _ => by revert ch; decide
theorem spddis (ch : Channel) : Statement (.spddis ch) := fun _ => by revert ch; decide
theorem spdrev (ch : Channel) (b : Byte) : Statement (.spdrev ch b) := by
  unfold Statement; revert ch b; decide +kernel
theorem spdfwd (ch : Channel) (b : Byte) : Statement (.spdfwd ch b) := by
  unfold Statement; revert ch b; decide +kernel

end Sys2Proof.Laws.RowSelected
end

