-- ==== Sys2Proof/Laws/Step.lean ====
section
/-! SUPPORT. What `exec` and `step` can do, said once. -/

namespace Sys2Proof.Machine

/-- Every meaning performs its whole sequence. -/
theorem exec_eq_perform (i : Instr) (s : State) : exec i s = .next (perform (script i) s) := by
  cases i <;> rfl

/-- A drive as one update of the state (R97). -/
theorem perform_driveScript (ch : Channel) (d : Direction) (m : Nat) (s : State) :
    perform (driveScript ch d m) s = { s with
      mode := .idle, trace := s.trace ++ [.drvEnable ch, .drvSetDirection ch d, .drvSetMagnitude ch m] } := by
  simp [driveScript, doAction, State.emit, State.setMode]

/-- Only `UPD` writes SENT or PHASE (R22, R20). -/
theorem script_writes_mode_only (i : Instr) (h : i ≠ .upd) :
    (∀ v, Action.writeSent v ∉ script i) ∧ ∀ p, Action.setPhase p ∉ script i := by
  cases i with
  | upd => exact absurd rfl h
  | _ => constructor <;> intro x <;> simp [script, scriptNop, scriptVer, scriptSel0, scriptSel1, scriptNopu,
      scriptSpdnop, scriptSpddis, scriptSpdrev, scriptSpdfwd, driveScript]

/-- One step of a run. -/
theorem run_succ {s t : State} (n : Nat) (h : step s = .next t) :
    Host.Core.run Sys2Proof.core (n + 1) s = Host.Core.run Sys2Proof.core n t := by
  have h' : Sys2Proof.core.step s = .next t := h
  simp only [Host.Core.run, h']

/-- All that one step can do. -/
inductive StepCase (s t : State) : Prop
  /-- Nothing arrives: the block waits. -/
  | waits (phase : s.phase ≠ .bootCheck) (inputs : s.inputs = []) (result : t = s)
  /-- A byte makes a whole step. -/
  | byte (b : Byte) (rest : List Input) (ready : ByteReady s b rest)
      (result : t = perform (script (decode s.mode b)) { s with inputs := rest })
  /-- A reset cuts the step of a byte. -/
  | byteCut (b : Byte) (n : Nat) (k : ResetKind) (rest : List Input) (phase : s.phase = .running)
      (inputs : s.inputs = .rx b :: .resetDuring n k :: rest)
      (result : t = performCut n k (script (decode s.mode b)) { s with inputs := rest })
  /-- The boot sequence runs whole. -/
  | boot (phase : s.phase = .bootCheck) (uncut : cutting s.inputs = none)
      (result : t = perform (bootScript s.sent) s)
  /-- A reset cuts the boot sequence. -/
  | bootCut (n : Nat) (k : ResetKind) (rest : List Input) (phase : s.phase = .bootCheck)
      (inputs : s.inputs = .resetDuring n k :: rest)
      (result : t = performCut n k (bootScript s.sent) { s with inputs := rest })
  /-- A reset is taken with nothing in progress. -/
  | resetTaken (k : ResetKind) (rest : List Input) (phase : s.phase ≠ .bootCheck) (next : ResetNext s k rest)
      (result : t = takeReset k { s with inputs := rest })
  /-- A byte arrives while the block is halted. -/
  | byteUnread (b : Byte) (rest : List Input) (phase : s.phase = .awaitReset ∨ s.phase = .updateMode)
      (inputs : s.inputs = .rx b :: rest)
      (result : t = { s with inputs := rest, unread := s.unread ++ [b] })

theorem stepHalted_cases {s t : State} (hp : s.phase = .awaitReset ∨ s.phase = .updateMode)
    (h : stepHalted s = .next t) : StepCase s t := by
  have hb : s.phase ≠ .bootCheck := by rcases hp with hp | hp <;> simp [hp]
  unfold stepHalted at h
  split at h <;> cases h
  · exact .waits hb ‹_› rfl
  · exact .byteUnread _ _ hp ‹_› rfl
  · exact .resetTaken _ _ hb (.inl ‹_›) rfl
  · exact .resetTaken _ _ hb (.inr ⟨_, ‹_›⟩) rfl

theorem stepRunning_cases {s t : State} (hp : s.phase = .running) (h : stepRunning s = .next t) : StepCase s t := by
  have hb : s.phase ≠ .bootCheck := by simp [hp]
  unfold stepRunning at h
  split at h
  · cases h; exact .waits hb ‹_› rfl
  · rename_i b rest hi
    simp only [stepByte] at h
    split at h
    · rename_i hc
      cases h
      exact .byteCut _ _ _ _ hp (by rw [hi, cutting_eq_some.1 hc]) rfl
    · rename_i hc
      rw [exec_eq_perform] at h
      cases h
      exact .byte _ _ ⟨hp, hi, hc⟩ rfl
  · cases h; exact .resetTaken _ _ hb (.inl ‹_›) rfl
  · cases h; exact .resetTaken _ _ hb (.inr ⟨_, ‹_›⟩) rfl

theorem stepBoot_cases {s t : State} (hp : s.phase = .bootCheck) (h : stepBoot s = .next t) : StepCase s t := by
  unfold stepBoot at h
  split at h <;> rename_i hc <;> cases h
  · exact .bootCut _ _ _ hp (cutting_eq_some.1 hc) rfl
  · exact .boot hp hc rfl

/-- The inversion lemma of the step function. -/
theorem step_cases {s t : State} (h : step s = .next t) : StepCase s t := by
  unfold step at h
  split at h <;> rename_i hp
  · exact stepBoot_cases hp h
  · exact stepRunning_cases hp h
  · exact stepHalted_cases (.inl hp) h
  · exact stepHalted_cases (.inr hp) h

/-- The lemma that turns a ready byte into the decoded instruction's sequence. -/
theorem step_byteReady {s : State} {b : Byte} {rest : List Input} (h : ByteReady s b rest) :
    step s = .next (perform (script (decode s.mode b)) { s with inputs := rest }) := by
  obtain ⟨hp, hi, hc⟩ := h
  simp [step, hp, stepRunning, hi, stepByte, hc, exec_eq_perform]

/-- A byte whose step a reset cuts. -/
theorem step_byteCut {s : State} {b : Byte} {n : Nat} {k : ResetKind} {rest : List Input}
    (hp : s.phase = .running) (hi : s.inputs = .rx b :: .resetDuring n k :: rest) :
    step s = .next (performCut n k (script (decode s.mode b)) { s with inputs := rest }) := by
  simp [step, hp, stepRunning, hi, stepByte, cutting]

/-- The whole boot sequence. -/
theorem step_boot {s : State} (hp : s.phase = .bootCheck) (hc : cutting s.inputs = none) :
    step s = .next (perform (bootScript s.sent) s) := by
  simp [step, hp, stepBoot, hc]

/-- A boot sequence that a reset cuts. -/
theorem step_bootCut {s : State} {n : Nat} {k : ResetKind} {rest : List Input}
    (hp : s.phase = .bootCheck) (hi : s.inputs = .resetDuring n k :: rest) :
    step s = .next (performCut n k (bootScript s.sent) { s with inputs := rest }) := by
  simp [step, hp, stepBoot, hi, cutting]

/-- A reset taken with nothing in progress. -/
theorem step_reset {s : State} {k : ResetKind} {rest : List Input} (hp : s.phase ≠ .bootCheck)
    (hi : ResetNext s k rest) : step s = .next (takeReset k { s with inputs := rest }) := by
  cases hph : s.phase <;> simp_all <;> rcases hi with hi | ⟨n, hi⟩ <;>
    simp [step, hph, stepRunning, stepHalted, hi]

end Sys2Proof.Machine
end

