-- ==== Sys2Proof/Machine/Flags.lean ====
section
/-! DEFINITION. Nothing: "The block has no flags, condition codes or predicates" (R18), so there is no flag to
compute and State has no flag. -/
end

