-- ==== Sys2Proof/Tests/Slice0.lean ====
section
/-! SUPPORT. Tests. Expected results come from spec/95_test_vectors.md (the section is named) or from the encodings
of R55 and R56 written out by hand; the witnesses at the end meet the hypotheses of the statements. -/

namespace Sys2Proof.Tests

open Sys2Proof Sys2Proof.Machine

/-! ### WellFormed refuses an ill-formed term, for each check -/

theorem test_nopu_below_range_refused : (Instr.nopu 0x04).wellFormed = false := by decide
theorem test_spdrev_below_range_refused : (Instr.spdrev 0 0x01).wellFormed = false := by decide
theorem test_spdrev_above_range_refused : (Instr.spdrev 0 0x80).wellFormed = false := by decide
theorem test_spdfwd_below_range_refused : (Instr.spdfwd 1 0x7F).wellFormed = false := by decide

/-! ### Words written out from R55 and R56 -/

theorem test_decode_nop : decodeWord 0b0000000000 = .ok .nop := by decide
theorem test_decode_ver : decodeWord 0b0000000001 = .ok .ver := by decide
theorem test_decode_sel0 : decodeWord 0b0000000010 = .ok .sel0 := by decide
theorem test_decode_sel1 : decodeWord 0b0000000011 = .ok .sel1 := by decide
theorem test_decode_upd : decodeWord 0b0000000100 = .ok .upd := by decide
theorem test_decode_nopu : decodeWord 0b0010000100 = .ok (.nopu 0x84) := by decide
theorem test_decode_spdnop : decodeWord 0b1100000000 = .ok (.spdnop 1) := by decide
theorem test_decode_spddis : decodeWord 0b1000000001 = .ok (.spddis 0) := by decide
theorem test_decode_spdrev : decodeWord 0b1100000100 = .ok (.spdrev 1 0x04) := by decide
theorem test_decode_spdfwd : decodeWord 0b1010000000 = .ok (.spdfwd 0 0x80) := by decide
theorem test_decode_no_state : decodeWord 0b0100000000 = .error .modeNotAState := by decide
theorem test_decodeTableWord_byte : decodeTableWord 8 0x1FF = some (.nopu 0xFF) := by decide
theorem test_decodeTableWord_mode : decodeTableWord 16 0x305 = some (.spdrev 1 0x05) := by decide
theorem test_table_has_21_rows : opcodeTable.length = 21 := by decide

/-! ### One step each (95_test_vectors.md 2.1, 2.2) -/

/-- A running block with nothing emitted, 0 in the sentinel cell. -/
def running (m : Mode) (is : List Input) : State :=
  { mode := m, phase := .running, sent := 0, trace := [], inputs := is, unread := [], draws := 0 }

/-- A block about to check the sentinel cell. -/
def checking (v : Word) (is : List Input) : State :=
  { mode := .idle, phase := .bootCheck, sent := v, trace := [], inputs := is, unread := [], draws := 0 }

theorem test_nop : step (running .idle [.rx 0x00]) = .next (running .idle []) := by rfl
theorem test_ver : step (running .idle [.rx 0x01]) =
    .next { running .idle [] with trace := [.txVersionLine] } := by rfl
theorem test_sel0 : step (running .idle [.rx 0x02]) = .next (running (.awaitingSpeed 0) []) := by rfl
theorem test_sel1 : step (running .idle [.rx 0x03]) = .next (running (.awaitingSpeed 1) []) := by rfl
theorem test_upd : step (running .idle [.rx 0x04]) =
    .next { running .idle [] with
      phase := .awaitReset, sent := Config.MAGIC,
      trace := [.txUpdateNotice, .memWrite Config.SENTINEL_ADDR 4 Config.MAGIC, .resetRequest] } := by rfl
theorem test_nopu_whole_byte_compared : step (running .idle [.rx 0x84]) = .next (running .idle []) := by rfl
theorem test_spdnop : step (running (.awaitingSpeed 1) [.rx 0x00]) = .next (running .idle []) := by rfl
theorem test_spddis : step (running (.awaitingSpeed 0) [.rx 0x01]) =
    .next { running .idle [] with trace := [.drvDisable 0] } := by rfl
theorem test_spdrev : step (running (.awaitingSpeed 0) [.rx 0x05]) =
    .next { running .idle [] with
      trace := [.drvEnable 0, .drvSetDirection 0 .reverse, .drvSetMagnitude 0 123] } := by rfl
theorem test_spdrev_slowest : step (running (.awaitingSpeed 1) [.rx 0x7F]) =
    .next { running .idle [] with
      trace := [.drvEnable 1, .drvSetDirection 1 .reverse, .drvSetMagnitude 1 1] } := by rfl
theorem test_spdfwd : step (running (.awaitingSpeed 1) [.rx 0xC8]) =
    .next { running .idle [] with
      trace := [.drvEnable 1, .drvSetDirection 1 .forward, .drvSetMagnitude 1 72] } := by rfl
theorem test_spdfwd_zero : step (running (.awaitingSpeed 0) [.rx 0x80]) =
    .next { running .idle [] with
      trace := [.drvEnable 0, .drvSetDirection 0 .forward, .drvSetMagnitude 0 0] } := by rfl

/-! ### Resets and boot (95_test_vectors.md 2.4, 2.5, 2.6) -/

theorem test_boot_zero : step (checking 0 []) =
    .next { running .idle [] with trace := [.memRead Config.SENTINEL_ADDR 4 0, .startupInit] } := by
  rw [step_boot rfl rfl, bootScript, if_neg (fun h => magic_ne_zero h.symm)]; rfl
theorem test_boot_magic : step (checking Config.MAGIC []) =
    .next { checking 0 [] with
      phase := .updateMode,
      trace := [.memRead Config.SENTINEL_ADDR 4 Config.MAGIC, .memWrite Config.SENTINEL_ADDR 4 0, .chainLoad] } := by
  rw [step_boot rfl rfl, bootScript, if_pos (show (checking Config.MAGIC []).sent = Config.MAGIC from rfl)]; rfl
theorem test_drive_cut_after_one : step (running (.awaitingSpeed 0) [.rx 0x05, .resetDuring 1 .warm]) =
    .next { checking 0 [] with trace := [.drvEnable 0], draws := 1 } := by rfl
theorem test_upd_cut_after_notice : step (running .idle [.rx 0x04, .resetDuring 1 .warm]) =
    .next { checking 0 [] with trace := [.txUpdateNotice], draws := 1 } := by rfl
theorem test_upd_cut_after_write : step (running .idle [.rx 0x04, .resetDuring 2 .warm]) =
    .next { checking Config.MAGIC [] with
      trace := [.txUpdateNotice, .memWrite Config.SENTINEL_ADDR 4 Config.MAGIC], draws := 1 } := by rfl
theorem test_powerOn_draws : step (running .idle [.reset .powerOn]) =
    .next { checking (Config.drawnWord 0) [] with draws := 1 } := by rfl
theorem test_selection_lost_at_reset : step (running (.awaitingSpeed 0) [.reset .warm, .rx 0x05]) =
    .next { checking 0 [.rx 0x05] with draws := 1 } := by rfl

/-! ### A table word is the next instruction, right after reset -/

theorem test_withFetchWord_cc : step (State.reset.withFetchWord 8 0x01) =
    .next { State.reset with phase := .running, trace := [.txVersionLine] } := by rfl
theorem test_withFetchWord_sb : step (State.reset.withFetchWord 10 0x201) =
    .next { State.reset with phase := .running, trace := [.drvDisable 0] } := by rfl

/-! ### Witnesses: each statement's hypotheses are met together -/

theorem witness_ready (m : Mode) (b : Byte) : ByteReady (running m [.rx b]) b [] := ⟨rfl, rfl, rfl⟩

theorem witness_DecodeEncodeRoundTrip :
    (Instr.nopu 5).wellFormed = true ∧ (Instr.spdrev 0 2).wellFormed = true ∧
    (Instr.spdrev 1 127).wellFormed = true ∧ (Instr.spdfwd 1 128).wellFormed = true := by decide
theorem witness_StepRunsDecodedByte : ByteReady (running .idle [.rx 0x84]) 0x84 [] := witness_ready _ _
theorem witness_RunningBlockHasNoFault :
    (running .idle [.rx 0, .resetDuring 0 .warm]).phase = .running ∧
    (running .idle [.rx 0, .resetDuring 0 .warm]).inputs = .rx 0 :: [.resetDuring 0 .warm] ∧
    (Instr.nopu 5).wellFormed = true ∧ (Instr.spdrev 1 2).wellFormed = true := ⟨rfl, rfl, rfl, rfl⟩
theorem witness_TraceOnlyGrows : ∃ t, step (running .idle [.rx 1]) = .next t := ⟨_, rfl⟩

/-- Each clause of the table at its boundary bytes. -/
theorem witness_TransitionTableHolds :
    ByteReady (running .idle [.rx 0]) 0 [] ∧ ByteReady (running .idle [.rx 1]) 1 [] ∧
    ByteReady (running .idle [.rx 2]) 2 [] ∧ ByteReady (running .idle [.rx 3]) 3 [] ∧
    ByteReady (running .idle [.rx 4]) 4 [] ∧ ByteReady (running .idle [.rx 5]) 5 [] ∧
    ByteReady (running .idle [.rx 255]) 255 [] ∧ 5 ≤ (5 : Byte).toNat ∧ ¬ 5 ≤ (4 : Byte).toNat ∧
    ByteReady (running (.awaitingSpeed 0) [.rx 0]) 0 [] ∧ ByteReady (running (.awaitingSpeed 0) [.rx 1]) 1 [] ∧
    ByteReady (running (.awaitingSpeed 1) [.rx 2]) 2 [] ∧ ByteReady (running (.awaitingSpeed 1) [.rx 127]) 127 [] ∧
    ByteReady (running (.awaitingSpeed 0) [.rx 128]) 128 [] ∧
    (2 ≤ (2 : Byte).toNat ∧ (127 : Byte).toNat ≤ 127 ∧ 128 ≤ (128 : Byte).toNat) ∧
    (∃ t, step (running .idle [.rx 4]) = .next t) ∧ ∃ t, step (running (.awaitingSpeed 0) [.rx 128]) = .next t := by
  refine ⟨witness_ready _ _, witness_ready _ _, witness_ready _ _, witness_ready _ _, witness_ready _ _,
    witness_ready _ _, witness_ready _ _, by decide, by decide, witness_ready _ _, witness_ready _ _,
    witness_ready _ _, witness_ready _ _, witness_ready _ _, by decide, ⟨_, rfl⟩, ⟨_, rfl⟩⟩

theorem witness_ZeroBytesResynchronise :
    (running (.awaitingSpeed 1) [.rx 0, .rx 0]).phase = .running ∧ cutting [] = none ∧
    (running (.awaitingSpeed 1) [.rx 0, .rx 0]).inputs = List.replicate (1 + 1) (.rx 0) ++ [] := by decide
theorem witness_WaitsWithoutTimeout :
    (running (.awaitingSpeed 0) []).phase = .running ∧ (running (.awaitingSpeed 0) []).inputs = [] := ⟨rfl, rfl⟩
theorem witness_SelectionWaitsOrIsConsumed :
    (running (.awaitingSpeed 1) [.rx 2]).phase = .running ∧
    (running (.awaitingSpeed 1) [.rx 2]).mode = .awaitingSpeed 1 ∧
    ∃ t, step (running (.awaitingSpeed 1) [.rx 2]) = .next t := ⟨rfl, rfl, _, rfl⟩
theorem witness_idle_state : (running .idle []).mode = .idle := rfl
theorem witness_NopuActsAsNop : 5 ≤ (5 : Byte).toNat ∧ 5 ≤ (255 : Byte).toNat ∧ (running .idle []).mode = .idle := by
  decide
theorem witness_SpdrevDrivesReverse :
    (2 ≤ (2 : Byte).toNat ∧ (2 : Byte).toNat ≤ 127) ∧ (2 ≤ (127 : Byte).toNat ∧ (127 : Byte).toNat ≤ 127) := by decide
theorem witness_SpdfwdDrivesForward : 128 ≤ (128 : Byte).toNat ∧ 128 ≤ (255 : Byte).toNat := by decide
theorem witness_TranslatorMatchesSpeedBytes :
    ((1 : Byte) ≠ 0 ∧ (1 : Byte) = 1) ∧
    ((127 : Byte) ≠ 1 ∧ ((127 : Byte).toNat : Int) - 128 < 0) ∧
    ((128 : Byte) ≠ 1 ∧ ¬ ((128 : Byte).toNat : Int) - 128 < 0) ∧
    ByteReady (running (.awaitingSpeed 0) [.rx 127]) 127 [] := ⟨by decide, by decide, by decide, witness_ready _ _⟩
theorem witness_TranslatorHasNoMeaningAtZero :
    ByteReady (running (.awaitingSpeed 1) [.rx 0]) 0 [] ∧
    (running (.awaitingSpeed 1) [.rx 0]).mode = .awaitingSpeed 1 := ⟨witness_ready _ _, rfl⟩
theorem witness_SpeedOperandForms :
    (2 : Byte) ≠ 0 ∧ (2 : Byte) ≠ 1 ∧ (127 : Byte).getLsbD 7 = false ∧ (128 : Byte).getLsbD 7 = true := by decide
theorem witness_SpeedByteMapOneToOne :
    2 ≤ (127 : Byte).toNat ∧ 2 ≤ (128 : Byte).toNat ∧ (128 : Byte).toNat = (127 : Byte).toNat + 1 ∧
    direction 2 = direction 2 ∧ magnitude 2 = magnitude 2 := by decide

/-- A drive's step and its events: the hypotheses of the statements about driver events. -/
theorem witness_drive : ∃ t, StepEmits (running (.awaitingSpeed 0) [.rx 0x80]) t
    [.drvEnable 0, .drvSetDirection 0 .forward, .drvSetMagnitude 0 0] := ⟨_, rfl, rfl⟩
theorem witness_DriverEventsOnSelectedChannel : apply 1 1 = some [.drvDisable 1] ∧
    eventChannel (.drvDisable 1) = some 1 ∧
    ∃ t, StepEmits (running (.awaitingSpeed 1) [.rx 1]) t [.drvDisable 1] := ⟨by decide, rfl, _, rfl, rfl⟩
theorem witness_EmittedMagnitudesInRange : ∃ t evs, StepEmits (running (.awaitingSpeed 0) [.rx 0x80]) t evs ∧
    OutEvent.drvSetMagnitude 0 0 ∈ evs :=
  witness_drive.elim fun t h => ⟨t, _, h, by decide⟩
theorem witness_NoCommandCodeWhileAwaiting :
    (∀ b ∈ [(0x00 : Byte), 0x02, 0x03, 0x05, 0xFF], ByteReady (running (.awaitingSpeed 1) [.rx b]) b []) ∧
    (∃ t, StepEmits (running (.awaitingSpeed 0) [.rx 4]) t
      [.drvEnable 0, .drvSetDirection 0 .reverse, .drvSetMagnitude 0 124]) ∧
    ∃ t, StepEmits (running .idle [.rx 1]) t [.txVersionLine] :=
  ⟨fun _ _ => witness_ready _ _, ⟨_, rfl, rfl⟩, _, rfl, rfl⟩
theorem witness_WholeStepEmitsZeroOneOrThree : ByteReady (running .idle [.rx 0]) 0 [] ∧
    ∃ t, StepEmits (running .idle [.rx 0]) t [] := ⟨witness_ready _ _, _, rfl, rfl⟩

theorem witness_OnlyVerAndUpdTransmit :
    (∃ t, StepEmits (running .idle [.rx 1]) t [.txVersionLine]) ∧
    (∃ t, StepEmits (running .idle [.rx 4]) t
      [.txUpdateNotice, .memWrite Config.SENTINEL_ADDR 4 Config.MAGIC, .resetRequest]) ∧
    OutEvent.startupInit ≠ .txVersionLine ∧ OutEvent.startupInit ≠ .txUpdateNotice :=
  ⟨⟨_, rfl, rfl⟩, ⟨_, rfl, rfl⟩, by decide, by decide⟩

theorem witness_BootChecksSentinel :
    ((checking Config.MAGIC []).phase = .bootCheck ∧ cutting (checking Config.MAGIC []).inputs = none ∧
      (checking Config.MAGIC []).sent = Config.MAGIC) ∧
    (checking 0 []).phase = .bootCheck ∧ cutting (checking 0 []).inputs = none ∧
      (checking 0 []).sent ≠ Config.MAGIC := ⟨⟨rfl, rfl, rfl⟩, rfl, rfl, fun h => magic_ne_zero h.symm⟩
theorem witness_StartupOnlyAfterCheck :
    (∃ t, StepEmits (checking 0 []) t [.memRead Config.SENTINEL_ADDR 4 0, .startupInit]) ∧
    ∃ t, StepEmits (checking Config.MAGIC []) t
      [.memRead Config.SENTINEL_ADDR 4 Config.MAGIC, .memWrite Config.SENTINEL_ADDR 4 0, .chainLoad] :=
  ⟨⟨_, test_boot_zero, rfl⟩, _, test_boot_magic, rfl⟩
theorem witness_SentinelAccessedAtThreePlaces :
    (∃ t evs, StepEmits (checking Config.MAGIC []) t evs ∧ OutEvent.memWrite Config.SENTINEL_ADDR 4 0 ∈ evs ∧
      OutEvent.memRead Config.SENTINEL_ADDR 4 Config.MAGIC ∈ evs) ∧
    (∃ t evs, StepEmits (running .idle [.rx 4]) t evs ∧
      OutEvent.memWrite Config.SENTINEL_ADDR 4 Config.MAGIC ∈ evs) ∧
    ∃ t, step (running .idle [.rx 2]) = .next t ∧ (running .idle [.rx 2]).phase = .running ∧ t.phase = .running :=
  ⟨⟨_, _, ⟨test_boot_magic, rfl⟩, by simp, by simp⟩,
   ⟨_, [.txUpdateNotice, .memWrite Config.SENTINEL_ADDR 4 Config.MAGIC, .resetRequest], ⟨test_upd, rfl⟩, by simp⟩,
   _, test_sel0, rfl, rfl⟩
theorem witness_ResetReturnsModeToIdle :
    (∃ t, step (running (.awaitingSpeed 1) [.resetDuring 0 .powerOn]) = .next t ∧ t.phase = .bootCheck) ∧
    (running (.awaitingSpeed 1) [.reset .warm]).phase ≠ .bootCheck ∧
    ResetNext (running (.awaitingSpeed 1) [.reset .warm]) .warm [] ∧
    (∃ s : State, s.phase = .bootCheck ∧ ∃ n, s.inputs = .resetDuring n .warm :: []) :=
  ⟨⟨_, rfl, rfl⟩, by decide, .inl rfl, { State.reset with inputs := [.resetDuring 2 .warm] }, rfl, 2, rfl⟩
theorem witness_ResetEntersBootCheck :
    (running .idle [.reset .powerOn]).phase ≠ .bootCheck ∧ ResetNext (running .idle [.reset .powerOn]) .powerOn [] ∧
    ResetNext { running .idle [.reset .warm] with phase := .updateMode } .warm [] ∧
    ResetNext (running .idle [.resetDuring 3 .warm]) .warm [] ∧ (running .idle []).unread = [] :=
  ⟨by decide, .inl rfl, .inl rfl, .inr ⟨3, rfl⟩, rfl⟩
theorem witness_ResetKeepsEmittedEvents :
    (∃ t u, step (running (.awaitingSpeed 0) [.rx 5, .resetDuring 1 .warm]) = .next t ∧
      step (running (.awaitingSpeed 0) [.rx 5]) = .next u) ∧
    decode (.awaitingSpeed 0) 5 ≠ .upd ∧
    (∃ t u, step (running .idle [.rx 4, .resetDuring 2 .powerOn]) = .next t ∧
      step (running .idle [.rx 4]) = .next u) ∧
    (∃ t, step (checking 0 [.resetDuring 1 .warm]) = .next t) ∧
    (∃ t, step (checking 0 [.resetDuring 2 .powerOn]) = .next t) ∧ ∃ u, step (checking 0 []) = .next u :=
  ⟨⟨_, _, rfl, rfl⟩, by decide, ⟨_, _, rfl, rfl⟩, ⟨_, step_bootCut rfl rfl⟩, ⟨_, step_bootCut rfl rfl⟩,
   _, test_boot_zero⟩
theorem witness_UpdCutByReset :
    (running .idle [.rx 4, .resetDuring 1 .warm]).phase = .running ∧
    (running .idle [.rx 4, .resetDuring 1 .warm]).mode = .idle ∧
    (running .idle [.rx 4, .resetDuring 2 .warm]).inputs = .rx 4 :: .resetDuring 2 .warm :: [] := ⟨rfl, rfl, rfl⟩
theorem witness_BootCutByReset :
    (checking Config.MAGIC [.resetDuring 1 .warm]).phase = .bootCheck ∧
    (checking Config.MAGIC [.resetDuring 1 .warm]).inputs = .resetDuring 1 .warm :: [] ∧
    (checking Config.MAGIC [.resetDuring 2 .warm]).sent = Config.MAGIC ∧
    (checking Config.MAGIC [.resetDuring 3 .warm]).inputs = .resetDuring 3 .warm :: [] ∧
    (checking 0 [.resetDuring 0 .warm]).sent ≠ Config.MAGIC := ⟨rfl, rfl, rfl, rfl, fun h => magic_ne_zero h.symm⟩
theorem witness_UpdateHandshakeTrace :
    (running .idle [.rx 4, .reset .warm]).phase = .running ∧ (running .idle [.rx 4, .reset .warm]).mode = .idle ∧
    cutting [] = none ∧ (running .idle [.rx 4, .reset .warm]).inputs = .rx 4 :: .reset .warm :: [] ∧
    (checking 0 []).phase = .bootCheck ∧ (checking 0 []).sent = 0 ∧ cutting (checking 0 []).inputs = none := by decide
theorem witness_restInv_running (m : Mode) (is : List Input) : RestInv (running m is) :=
  ⟨fun h => absurd rfl h, fun _ h => magic_ne_zero h.symm, fun h => (nomatch h), fun _ => rfl⟩
theorem witness_WarmResetOutsideUpdBootsNormally :
    RestInv (running (.awaitingSpeed 0) [.reset .warm]) ∧
    (running (.awaitingSpeed 0) [.reset .warm]).phase = .running ∧ cutting [] = none ∧
    ResetNext (running (.awaitingSpeed 0) [.reset .warm]) .warm [] ∧
    RestInv (running (.awaitingSpeed 0) [.rx 4, .resetDuring 1 .warm]) ∧
    (running (.awaitingSpeed 0) [.rx 4, .resetDuring 1 .warm]).inputs = .rx 4 :: .resetDuring 1 .warm :: [] ∧
    decode (.awaitingSpeed 0) 4 ≠ .upd ∧ ∃ u, step (running (.awaitingSpeed 0) [.rx 4]) = .next u :=
  ⟨witness_restInv_running _ _, rfl, rfl, .inl rfl, witness_restInv_running _ _, rfl, by decide, _, rfl⟩
theorem witness_HaltedUntilReset :
    (∃ t, step { running .idle [.rx 1] with phase := .awaitReset } = .next t) ∧
    ∃ t, step { running .idle [.reset .warm] with phase := .updateMode } = .next t := ⟨⟨_, rfl⟩, _, rfl⟩
theorem witness_PhaseChangesOnlyAsGiven :
    (∃ t, step (running .idle [.rx 4]) = .next t) ∧ ∃ t, step (checking 0 []) = .next t :=
  ⟨⟨_, rfl⟩, _, test_boot_zero⟩
theorem witness_StepKeepsRestInvariant : RestInv (running .idle [.rx 4]) ∧
    ∃ t, step (running .idle [.rx 4]) = .next t := ⟨witness_restInv_running _ _, _, rfl⟩
theorem witness_OnlyModePhaseSentMatter :
    (running .idle [.rx 2, .rx 5]).inputs = List.map .rx [2, 5] ∧
    ({ running .idle [.rx 2, .rx 5] with trace := [.startupInit], draws := 7 } : State).inputs = List.map .rx [2, 5] ∧
    (running .idle [.rx 2, .rx 5]).mode =
      ({ running .idle [.rx 2, .rx 5] with trace := [.startupInit], draws := 7 } : State).mode := ⟨rfl, rfl, rfl⟩
theorem witness_StepReadsModeAndByteOnly :
    ByteReady (running .idle [.rx 4]) 4 [] ∧
    ByteReady { running .idle [.rx 4, .rx 1] with sent := 9 } 4 [.rx 1] ∧
    (running .idle [.rx 4]).mode = ({ running .idle [.rx 4, .rx 1] with sent := 9 } : State).mode :=
  ⟨witness_ready _ _, ⟨rfl, rfl, rfl⟩, rfl⟩
theorem witness_DriveDrivesAtSignedSpeed :
    (Pseudo.drive 0 (-126)).allowed = true ∧ (Pseudo.drive 0 127).allowed = true ∧
    (running .idle [.rx 2, .rx 2]).inputs = (Pseudo.drive 0 (-126)).expand.map .rx ++ [] ∧
    (running .idle [.rx 3, .rx 255]).inputs = (Pseudo.drive 1 127).expand.map .rx ++ [] := by decide
theorem witness_SpeedDisableResyncRun :
    (running .idle [.rx 2, .rx 0]).inputs = (Pseudo.speed 0 0).expand.map .rx ++ [] ∧
    apply 1 1 = some [.drvDisable 1] ∧
    (running .idle [.rx 3, .rx 1]).inputs = (Pseudo.disable 1).expand.map .rx ++ [] ∧
    (running (.awaitingSpeed 0) [.rx 0]).inputs = Pseudo.resync.expand.map .rx ++ [] := by decide

end Sys2Proof.Tests
end

/-! The two statements of the scope document: the output trace of a step (R5) and the parameters (R6, R32). -/

namespace Sys2Proof.Machine

theorem perform_trace_prefix (as : List Action) (s : State) : s.trace <+: (perform as s).trace := by
  rw [perform_trace]
  exact List.prefix_append _ _

/-- What a cut sequence had emitted stands (R133). -/
theorem performCut_trace_prefix (n : Nat) (k : ResetKind) (as : List Action) (s : State) :
    s.trace <+: (performCut n k as s).trace := by
  rw [performCut_trace]
  exact List.prefix_append _ _

/-- Every reaction is a sequence, whole or cut; waiting, a reset at rest and an unread byte leave the trace alone. -/
theorem step_trace_prefix {s t : State} (h : step s = .next t) : s.trace <+: t.trace := by
  cases step_cases h with
  | waits _ _ result => rw [result]
  | byte b rest _ result => rw [result]; exact perform_trace_prefix _ { s with inputs := rest }
  | byteCut b n k rest _ _ result => rw [result]; exact performCut_trace_prefix n k _ { s with inputs := rest }
  | boot _ _ result => rw [result]; exact perform_trace_prefix _ s
  | bootCut n k rest _ _ result => rw [result]; exact performCut_trace_prefix n k _ { s with inputs := rest }
  | resetTaken k rest _ _ result => rw [result, takeReset_trace]
  | byteUnread b rest _ _ result => rw [result]

/-- Settles O8: the events are what the new trace has behind the old one. -/
theorem traceOnlyGrows : Obligations.TraceOnlyGrows := by
  intro s t h
  obtain ⟨evs, hevs⟩ := step_trace_prefix h
  exact ⟨evs, h, hevs.symm⟩

/-- R32, D4: natural alignment for a 32-bit access. -/
theorem sentinel_addr_aligned : Config.SENTINEL_ADDR % 4 = 0 := Nat.mul_mod_right 4 _

/-- Settles O46: D3 is `magic_ne_zero`, D4 is `sentinel_addr_aligned`. -/
theorem parametersConstrained : Obligations.ParametersConstrained :=
  ⟨magic_ne_zero, sentinel_addr_aligned⟩

end Sys2Proof.Machine

/-! The statements on the block's state: MODE and PHASE across a step, the accesses to SENT, what a run depends on. -/

namespace Sys2Proof.Machine

/-! ### What the sequences do to PHASE and SENT, and which of their events touch the cell -/

/-- The one MODE and byte that request update mode (R56, R75). -/
theorem decode_eq_upd {m : Mode} {b : Byte} (h : decode m b = .upd) : m = .idle ∧ b = 4 := by
  have hm := decode_mode m b
  have hb := decode_byte m b
  rw [h] at hm hb
  exact ⟨hm.symm, hb.symm⟩

theorem perform_script_upd_phase (s : State) : (perform (script .upd) s).phase = .awaitReset := by
  rw [script, scriptUpd, perform_enterUpdateMode]

theorem perform_script_phase {i : Instr} (s : State) (h : i ≠ .upd) : (perform (script i) s).phase = s.phase :=
  perform_phase _ s (script_writes_mode_only i h).2

theorem perform_script_sent {i : Instr} (s : State) (h : i ≠ .upd) : (perform (script i) s).sent = s.sent :=
  perform_sent _ s (script_writes_mode_only i h).1

/-- Where the boot sequence ends on either path (R113). -/
theorem perform_bootScript_phase (v : Word) (s : State) :
    (perform (bootScript v) s).phase = if v = Config.MAGIC then .updateMode else .running := by
  unfold bootScript
  split <;> rfl

/-- No command reads the cell (R22). -/
theorem scriptEvents_script_reads (v : Word) (i : Instr) : (scriptEvents v (script i)).countP isMemRead = 0 := by
  cases i <;> rfl

/-- The only write of a command is `UPD`'s, of `MAGIC` (R22, R110). -/
theorem memWrite_mem_scriptEvents_script {v w : Word} {i : Instr} {a n : Nat}
    (h : OutEvent.memWrite a n w ∈ scriptEvents v (script i)) :
    i = .upd ∧ a = Config.SENTINEL_ADDR ∧ n = 4 ∧ w = Config.MAGIC := by
  cases i with
  | upd => simpa [script, scriptUpd, enterUpdateMode, scriptEvents] using h
  | _ => simp [script, scriptNop, scriptVer, scriptSel0, scriptSel1, scriptNopu, scriptSpdnop, scriptSpddis,
      scriptSpdrev, scriptSpdfwd, driveScript, scriptEvents] at h

theorem scriptEvents_boot_reads (v : Word) : (scriptEvents v (bootScript v)).countP isMemRead = 1 := by
  rw [scriptEvents_boot]
  split <;> rfl

theorem memRead_mem_scriptEvents_boot {v w : Word} {a n : Nat}
    (h : OutEvent.memRead a n w ∈ scriptEvents v (bootScript v)) :
    a = Config.SENTINEL_ADDR ∧ n = 4 ∧ w = v := by
  rw [scriptEvents_boot] at h
  split at h <;> simpa using h

theorem memWrite_mem_scriptEvents_boot {v w : Word} {a n : Nat}
    (h : OutEvent.memWrite a n w ∈ scriptEvents v (bootScript v)) :
    a = Config.SENTINEL_ADDR ∧ n = 4 ∧ w = 0 ∧ v = Config.MAGIC := by
  rw [scriptEvents_boot] at h
  split at h
  · next hv => simpa [hv] using h
  · simp at h

/-! ### The events of one step -/

/-- All that one step can emit: nothing, the first of the decoded byte's events, or the first of the boot sequence's, and
all of these if no reset cuts it. -/
inductive StepEvents (s : State) (evs : List OutEvent) : Prop
  /-- The block waits, takes a reset at rest, or leaves a byte unread. -/
  | silent (phase : s.phase ≠ .bootCheck) (events : evs = [])
  /-- A byte makes a step, whole or cut. -/
  | byte (b : Byte) (rest : List Input) (phase : s.phase = .running) (inputs : s.inputs = .rx b :: rest)
      (events : evs <+: scriptEvents s.sent (script (decode s.mode b)))
  /-- The boot sequence runs, whole or cut. -/
  | boot (phase : s.phase = .bootCheck) (events : evs <+: scriptEvents s.sent (bootScript s.sent))
      (whole : cutting s.inputs = none → evs = scriptEvents s.sent (bootScript s.sent))

theorem StepEmits.events {s t : State} {evs : List OutEvent} (h : StepEmits s t evs) : StepEvents s evs := by
  obtain ⟨hstep, htrace⟩ := h
  have events_eq {xs : List OutEvent} (hx : t.trace = s.trace ++ xs) : evs = xs :=
    List.append_cancel_left (htrace.symm.trans hx)
  cases step_cases hstep with
  | waits phase _ result => exact .silent phase (events_eq (by simp [result]))
  | byte b rest ready result =>
    obtain ⟨phase, inputs, _⟩ := ready
    have := events_eq (result ▸ perform_trace _ _)
    exact .byte b rest phase inputs (this ▸ List.prefix_rfl)
  | byteCut b n k rest phase inputs result =>
    have := events_eq (result ▸ performCut_trace n k _ _)
    exact .byte b _ phase inputs (this ▸ List.take_prefix _ _)
  | boot phase _ result =>
    have := events_eq (result ▸ perform_trace _ _)
    exact .boot phase (this ▸ List.prefix_rfl) (fun _ => this)
  | bootCut n k rest phase inputs result =>
    have := events_eq (result ▸ performCut_trace n k _ _)
    exact .boot phase (this ▸ List.take_prefix _ _) (fun uncut => by simp [inputs, cutting] at uncut)
  | resetTaken k rest phase _ result => exact .silent phase (events_eq (by simp [result]))
  | byteUnread b rest phase _ result =>
    exact .silent (by rcases phase with hp | hp <;> simp [hp]) (events_eq (by simp [result]))

/-! ### The accesses to SENT -/

theorem memRead_of_stepEmits {s t : State} {evs : List OutEvent} (h : StepEmits s t evs) {a n : Nat} {v : Word}
    (hmem : OutEvent.memRead a n v ∈ evs) :
    s.phase = .bootCheck ∧ a = Config.SENTINEL_ADDR ∧ n = 4 ∧ v = s.sent := by
  cases h.events with
  | silent _ events => simp [events] at hmem
  | byte b rest _ _ events =>
    have none_read := List.countP_eq_zero.1 (scriptEvents_script_reads s.sent (decode s.mode b))
    exact absurd rfl (none_read _ (events.subset hmem))
  | boot phase events _ => exact ⟨phase, memRead_mem_scriptEvents_boot (events.subset hmem)⟩

theorem memRead_at_most_once {s t : State} {evs : List OutEvent} (h : StepEmits s t evs) :
    evs.countP isMemRead ≤ 1 := by
  cases h.events with
  | silent _ events => simp [events]
  | byte b rest _ _ events =>
    calc evs.countP isMemRead
        ≤ (scriptEvents s.sent (script (decode s.mode b))).countP isMemRead := events.sublist.countP_le
      _ ≤ 1 := by simp [scriptEvents_script_reads]
  | boot _ events _ => exact scriptEvents_boot_reads s.sent ▸ events.sublist.countP_le

theorem memRead_once_of_uncut_boot {s t : State} {evs : List OutEvent} (h : StepEmits s t evs)
    (hp : s.phase = .bootCheck) (hc : cutting s.inputs = none) : evs.countP isMemRead = 1 := by
  cases h.events with
  | silent phase _ => exact absurd hp phase
  | byte _ _ phase _ _ => simp [hp] at phase
  | boot _ _ whole => rw [whole hc, scriptEvents_boot_reads]

theorem memWrite_of_stepEmits {s t : State} {evs : List OutEvent} (h : StepEmits s t evs) {a n : Nat} {v : Word}
    (hmem : OutEvent.memWrite a n v ∈ evs) :
    a = Config.SENTINEL_ADDR ∧ n = 4 ∧
      ((v = 0 ∧ s.phase = .bootCheck ∧ s.sent = Config.MAGIC) ∨
       (v = Config.MAGIC ∧ s.phase = .running ∧ s.mode = .idle ∧ ∃ rest, s.inputs = .rx 4 :: rest)) := by
  cases h.events with
  | silent _ events => simp [events] at hmem
  | byte b rest phase inputs events =>
    obtain ⟨hupd, ha, hn, hv⟩ := memWrite_mem_scriptEvents_script (events.subset hmem)
    obtain ⟨hmode, rfl⟩ := decode_eq_upd hupd
    exact ⟨ha, hn, .inr ⟨hv, phase, hmode, rest, inputs⟩⟩
  | boot phase events _ =>
    obtain ⟨ha, hn, hv, hsent⟩ := memWrite_mem_scriptEvents_boot (events.subset hmem)
    exact ⟨ha, hn, .inl ⟨hv, phase, hsent⟩⟩

/-- While the block stays `Running`, SENT keeps its value: `UPD` halts it, and a reset sends it to `BootCheck` (R22). -/
theorem step_running_keeps_sent {s t : State} (h : step s = .next t) (hs : s.phase = .running)
    (ht : t.phase = .running) : t.sent = s.sent := by
  cases step_cases h with
  | waits _ _ result => rw [result]
  | byte b rest _ result =>
    subst result
    by_cases hi : decode s.mode b = .upd
    · simp [hi, perform_script_upd_phase] at ht
    · exact perform_script_sent _ hi
  | byteCut _ _ _ _ _ _ result => simp [result, performCut] at ht
  | boot phase _ _ => simp [hs] at phase
  | bootCut _ _ _ phase _ _ => simp [hs] at phase
  | resetTaken _ _ _ _ result => simp [result] at ht
  | byteUnread _ _ _ _ result => rw [result]

/-- Settles O33: a step's events are the first ones of a known sequence (`StepEmits.events`), and of those sequences only
the boot's and `UPD`'s touch the cell. -/
theorem sentinelAccessedAtThreePlaces : Obligations.SentinelAccessedAtThreePlaces :=
  ⟨fun _ _ _ h => ⟨fun _ _ _ => memRead_of_stepEmits h, memRead_at_most_once h, memRead_once_of_uncut_boot h,
    fun _ _ _ => memWrite_of_stepEmits h⟩, fun _ _ => step_running_keeps_sent⟩

/-! ### MODE and PHASE across a step -/

/-- Settles O42, by what a step can do: `UPD` is the only command that assigns PHASE, and every cut ends in the
reset's `BootCheck`. -/
theorem phaseChangesOnlyAsGiven : Obligations.PhaseChangesOnlyAsGiven := by
  intro s t h
  cases step_cases h with
  | waits phase _ result => exact .inl ⟨by rw [result], phase⟩
  | byte b rest ready result =>
    obtain ⟨phase, inputs, _⟩ := ready
    subst result
    by_cases hi : decode s.mode b = .upd
    · obtain ⟨hmode, rfl⟩ := decode_eq_upd hi
      exact .inr (.inr (.inl ⟨phase, by rw [hi, perform_script_upd_phase], hmode, rest, inputs⟩))
    · exact .inl ⟨perform_script_phase _ hi, by simp [phase]⟩
  | byteCut b n k rest _ inputs result =>
    subst result
    exact .inr (.inr (.inr ⟨rfl, rfl, k, rest, .inr ⟨b, n, inputs⟩⟩))
  | boot phase _ result =>
    refine .inr (.inl ⟨phase, ?_⟩)
    rw [result, perform_bootScript_phase]
    split <;> simp
  | bootCut n k rest _ inputs result =>
    subst result
    exact .inr (.inr (.inr ⟨rfl, rfl, k, rest, .inl (.inr ⟨n, inputs⟩)⟩))
  | resetTaken k rest _ next result =>
    subst result
    exact .inr (.inr (.inr ⟨rfl, rfl, k, rest, .inl next⟩))
  | byteUnread _ _ phase _ result =>
    exact .inl ⟨by rw [result], by rcases phase with hp | hp <;> simp [hp]⟩

/-- Every way into `BootCheck` is a reset, which returns MODE to `Idle` (R12). -/
theorem step_bootCheck_mode {s t : State} (h : step s = .next t) (ht : t.phase = .bootCheck) : t.mode = .idle := by
  obtain ⟨hphase, hboot⟩ | ⟨_, hphase⟩ | ⟨_, hphase, _⟩ | ⟨_, hmode, _⟩ := phaseChangesOnlyAsGiven s t h
  · exact absurd (hphase.symm.trans ht) hboot
  · simp [ht] at hphase
  · simp [ht] at hphase
  · exact hmode

/-- Settles O34: a reset overwrites MODE, and neither the draw it takes nor a boot sequence reads it
(`takeReset_perform_mode`). -/
theorem resetReturnsModeToIdle : Obligations.ResetReturnsModeToIdle := by
  refine ⟨fun _ _ => step_bootCheck_mode, rfl, fun s m kind rest h => ?_⟩
  rcases h with ⟨hp, next⟩ | ⟨hp, n, inputs⟩
  · exact ⟨_, step_reset hp next, step_reset (s := { s with mode := m }) hp next⟩
  · refine ⟨_, step_bootCut hp inputs, ?_⟩
    rw [step_bootCut (s := { s with mode := m }) hp inputs]
    exact congrArg _ (takeReset_perform_mode kind m _ { s with inputs := rest })

/-- Settles O44: the state after reset is in `BootCheck`, so only the rows on MODE and the unread bytes bind it. -/
theorem resetMeetsRestInvariant : Obligations.ResetMeetsRestInvariant where
  idle_unless_running _ := rfl
  running_not_magic := nofun
  awaitReset_magic := nofun
  none_unread _ := rfl

/-- Settles O45: the fields of the state after reset. -/
theorem resetStateAsGiven : Obligations.ResetStateAsGiven := ⟨rfl, rfl, rfl⟩

/-! ### What a run depends on (R13) -/

/-- With no input only a boot sequence has anything to do. -/
theorem step_waits {s : State} (hp : s.phase ≠ .bootCheck) (hi : s.inputs = []) : step s = .next s := by
  cases hph : s.phase with
  | bootCheck => exact absurd hph hp
  | running => simp [step, hph, stepRunning, hi]
  | awaitReset => simp [step, hph, stepHalted, hi]
  | updateMode => simp [step, hph, stepHalted, hi]

/-- A byte offered to a halted block waits at the link. -/
theorem step_byteUnread {s : State} {b : Byte} {rest : List Input}
    (hp : s.phase = .awaitReset ∨ s.phase = .updateMode) (hi : s.inputs = .rx b :: rest) :
    step s = .next { s with inputs := rest, unread := s.unread ++ [b] } := by
  rcases hp with hp | hp <;> simp [step, hp, stepHalted, hi]

/-- Bytes alone cut nothing. -/
@[simp] theorem cutting_map_rx (bytes : List Byte) : cutting (bytes.map .rx) = none := by
  cases bytes <;> rfl

/-- The states agree on MODE, PHASE and SENT, and `bytes` are the inputs to come of both. -/
structure Alike (bytes : List Byte) (s s' : State) : Prop where
  mode : s.mode = s'.mode
  phase : s.phase = s'.phase
  sent : s.sent = s'.sent
  inputs : s.inputs = bytes.map .rx
  inputs' : s'.inputs = bytes.map .rx

/-- From both states a step is taken that emits the same events, to states alike before `rest`. -/
def StepAlike (rest : List Byte) (s s' : State) : Prop :=
  ∃ evs t t', StepEmits s t evs ∧ StepEmits s' t' evs ∧ Alike rest t t'

theorem Alike.doAction {bytes : List Byte} {s s' : State} (h : Alike bytes s s') (a : Action) :
    Alike bytes (doAction a s) (doAction a s') := by
  obtain ⟨mode, phase, sent, inputs, inputs'⟩ := h
  cases a with
  | emit e => exact ⟨mode, phase, sent, inputs, inputs'⟩
  | readSent => exact ⟨mode, phase, sent, inputs, inputs'⟩
  | writeSent v => exact ⟨mode, phase, rfl, inputs, inputs'⟩
  | setMode m => exact ⟨rfl, phase, sent, inputs, inputs'⟩
  | setPhase p => exact ⟨mode, rfl, sent, inputs, inputs'⟩

theorem Alike.perform {bytes : List Byte} {s s' : State} (h : Alike bytes s s') (as : List Action) :
    Alike bytes (perform as s) (perform as s') := by
  induction as generalizing s s' with
  | nil => exact h
  | cons a as ih => exact ih (h.doAction a)

/-- Both states react with the same sequence (the empty one where they wait or leave a byte unread), each performed on
the state once its input is taken: the events depend on SENT alone. -/
theorem stepAlike_of_perform {bytes : List Byte} {s s' u u' : State} {as : List Action}
    (hstep : step s = .next (perform as u)) (hstep' : step s' = .next (perform as u')) (h : Alike bytes u u')
    (hu : u.trace = s.trace) (hu' : u'.trace = s'.trace) : StepAlike bytes s s' := by
  refine ⟨scriptEvents u.sent as, _, _, ⟨hstep, ?_⟩, ⟨hstep', ?_⟩, h.perform as⟩
  · rw [perform_trace, hu]
  · rw [perform_trace, hu', h.sent]

theorem Alike.boot {bytes : List Byte} {s s' : State} (h : Alike bytes s s') (hp : s.phase = .bootCheck) :
    StepAlike bytes s s' := by
  have hstep := step_boot hp (by simp [h.inputs])
  have hstep' := step_boot (h.phase ▸ hp) (by simp [h.inputs'])
  rw [← h.sent] at hstep'
  exact stepAlike_of_perform hstep hstep' h rfl rfl

theorem Alike.waits {s s' : State} (h : Alike [] s s') (hp : s.phase ≠ .bootCheck) : StepAlike [] s s' :=
  stepAlike_of_perform (as := []) (step_waits hp h.inputs) (step_waits (h.phase ▸ hp) h.inputs') h rfl rfl

theorem Alike.byte {b : Byte} {rest : List Byte} {s s' : State} (h : Alike (b :: rest) s s')
    (hp : s.phase = .running) : StepAlike rest s s' := by
  have same_instr : decode s'.mode b = decode s.mode b := by rw [h.mode]
  have hstep := step_byteReady ⟨hp, h.inputs, cutting_map_rx rest⟩
  have hstep' := step_byteReady ⟨h.phase ▸ hp, h.inputs', cutting_map_rx rest⟩
  rw [same_instr] at hstep'
  exact stepAlike_of_perform hstep hstep' ⟨h.mode, h.phase, h.sent, rfl, rfl⟩ rfl rfl

theorem Alike.byteUnread {b : Byte} {rest : List Byte} {s s' : State} (h : Alike (b :: rest) s s')
    (hp : s.phase = .awaitReset ∨ s.phase = .updateMode) : StepAlike rest s s' :=
  stepAlike_of_perform (as := []) (step_byteUnread hp h.inputs) (step_byteUnread (h.phase ▸ hp) h.inputs')
    ⟨h.mode, h.phase, h.sent, rfl, rfl⟩ rfl rfl

/-- Alike states stay alike, whatever the PHASE. -/
theorem Alike.step {bytes : List Byte} {s s' : State} (h : Alike bytes s s') : ∃ rest, StepAlike rest s s' := by
  by_cases hb : s.phase = .bootCheck
  · exact ⟨_, h.boot hb⟩
  cases bytes with
  | nil => exact ⟨_, h.waits hb⟩
  | cons b rest =>
    cases hp : s.phase with
    | bootCheck => exact absurd hp hb
    | running => exact ⟨_, h.byte hp⟩
    | awaitReset => exact ⟨_, h.byteUnread (.inl hp)⟩
    | updateMode => exact ⟨_, h.byteUnread (.inr hp)⟩

/-- Settles O47, by induction on the number of steps: `Alike` is the relation that each step keeps. -/
theorem onlyModePhaseSentMatter : Obligations.OnlyModePhaseSentMatter := by
  intro n
  induction n with
  | zero =>
    intro bytes s s' mode phase sent _ _
    exact ⟨[], s, s', rfl, rfl, by simp, by simp, mode, phase, sent⟩
  | succ n ih =>
    intro bytes s s' mode phase sent inputs inputs'
    obtain ⟨rest, evs, t, t', ⟨hstep, htrace⟩, ⟨hstep', htrace'⟩, hl⟩ :=
      Alike.step ⟨mode, phase, sent, inputs, inputs'⟩
    obtain ⟨more, u, u', hrun, hrun', hu, hu', agree⟩ :=
      ih rest t t' hl.mode hl.phase hl.sent hl.inputs hl.inputs'
    refine ⟨evs ++ more, u, u', ?_, ?_, ?_, ?_, agree⟩
    · rw [run_succ n hstep, hrun]
    · rw [run_succ n hstep', hrun']
    · rw [hu, htrace, List.append_assoc]
    · rw [hu', htrace', List.append_assoc]

end Sys2Proof.Machine

/-! The statement on the Serial Link: which events hand bytes to it, and which commands emit them (R36). -/

namespace Sys2Proof.Machine

/-! ### The transmissions of the sequences -/

/-- The one MODE and byte that request the version line (R56, R72). -/
theorem decode_eq_ver {m : Mode} {b : Byte} (h : decode m b = .ver) : m = .idle ∧ b = 1 := by
  have hm := decode_mode m b
  have hb := decode_byte m b
  rw [h] at hm hb
  exact ⟨hm.symm, hb.symm⟩

/-- Only the two transmissions hand bytes to the link. -/
theorem serialBytes_eq_nil {e : OutEvent} (hv : e ≠ .txVersionLine) (hu : e ≠ .txUpdateNotice) :
    serialBytes e = [] := by
  cases e with
  | txVersionLine => exact absurd rfl hv
  | txUpdateNotice => exact absurd rfl hu
  | _ => rfl

theorem scriptEvents_ver (v : Word) : scriptEvents v (script .ver) = [.txVersionLine] := rfl

theorem count_txVersionLine_script (v : Word) (i : Instr) :
    (scriptEvents v (script i)).count .txVersionLine = if i = .ver then 1 else 0 := by
  cases i <;> rfl

theorem count_txUpdateNotice_script (v : Word) (i : Instr) :
    (scriptEvents v (script i)).count .txUpdateNotice = if i = .upd then 1 else 0 := by
  cases i <;> rfl

theorem txVersionLine_mem_script {v : Word} {i : Instr} :
    OutEvent.txVersionLine ∈ scriptEvents v (script i) ↔ i = .ver := by
  rw [← List.count_pos_iff, count_txVersionLine_script]
  split <;> simp [*]

theorem txUpdateNotice_mem_script {v : Word} {i : Instr} :
    OutEvent.txUpdateNotice ∈ scriptEvents v (script i) ↔ i = .upd := by
  rw [← List.count_pos_iff, count_txUpdateNotice_script]
  split <;> simp [*]

theorem txVersionLine_notMem_boot (v : Word) : OutEvent.txVersionLine ∉ scriptEvents v (bootScript v) := by
  rw [scriptEvents_boot]
  split <;> simp

theorem txUpdateNotice_notMem_boot (v : Word) : OutEvent.txUpdateNotice ∉ scriptEvents v (bootScript v) := by
  rw [scriptEvents_boot]
  split <;> simp

/-! ### The transmissions of one step -/

/-- A step that emits what the boot sequence does not is a running block's on a byte. -/
theorem StepEmits.byte_of_notMem_boot {s t : State} {evs : List OutEvent} (h : StepEmits s t evs) {e : OutEvent}
    (hmem : e ∈ evs) (hboot : e ∉ scriptEvents s.sent (bootScript s.sent)) :
    s.phase = .running ∧ ∃ b rest, s.inputs = .rx b :: rest ∧
      evs <+: scriptEvents s.sent (script (decode s.mode b)) := by
  cases h.events with
  | silent _ events => simp [events] at hmem
  | byte b rest phase inputs events => exact ⟨phase, b, rest, inputs, events⟩
  | boot _ events _ => exact absurd (events.subset hmem) hboot

theorem txVersionLine_of_stepEmits {s t : State} {evs : List OutEvent} (h : StepEmits s t evs)
    (hmem : OutEvent.txVersionLine ∈ evs) :
    s.phase = .running ∧ s.mode = .idle ∧ (∃ rest, s.inputs = .rx 1 :: rest) ∧ evs = [.txVersionLine] := by
  obtain ⟨phase, b, rest, inputs, events⟩ := h.byte_of_notMem_boot hmem (txVersionLine_notMem_boot _)
  have hver : decode s.mode b = .ver := txVersionLine_mem_script.1 (events.subset hmem)
  obtain ⟨hmode, rfl⟩ := decode_eq_ver hver
  rw [hver, scriptEvents_ver] at events
  exact ⟨phase, hmode, ⟨rest, inputs⟩, events.eq_of_length_le (List.length_pos_of_mem hmem)⟩

theorem txUpdateNotice_of_stepEmits {s t : State} {evs : List OutEvent} (h : StepEmits s t evs)
    (hmem : OutEvent.txUpdateNotice ∈ evs) :
    s.phase = .running ∧ s.mode = .idle ∧ (∃ rest, s.inputs = .rx 4 :: rest) ∧
      evs.count .txUpdateNotice = 1 ∧ OutEvent.txVersionLine ∉ evs := by
  obtain ⟨phase, b, rest, inputs, events⟩ := h.byte_of_notMem_boot hmem (txUpdateNotice_notMem_boot _)
  have hupd : decode s.mode b = .upd := txUpdateNotice_mem_script.1 (events.subset hmem)
  obtain ⟨hmode, rfl⟩ := decode_eq_upd hupd
  rw [hupd] at events
  have at_most_once : evs.count .txUpdateNotice ≤ 1 :=
    (events.sublist.count_le _).trans_eq (count_txUpdateNotice_script _ _)
  have no_version_line : OutEvent.txVersionLine ∉ evs := fun hv =>
    nomatch txVersionLine_mem_script.1 (events.subset hv)
  exact ⟨phase, hmode, ⟨rest, inputs⟩, at_most_once.antisymm (List.count_pos_iff.2 hmem), no_version_line⟩

/-- Settles O30: a transmission is no boot event, so the step is a byte's, and of the commands only `VER` has the
version line and only `UPD` the notice, each once (`count_txVersionLine_script`, `count_txUpdateNotice_script`). -/
theorem onlyVerAndUpdTransmit : Obligations.OnlyVerAndUpdTransmit :=
  ⟨rfl, rfl, fun _ => serialBytes_eq_nil,
    fun _ _ _ h => ⟨txVersionLine_of_stepEmits h, txUpdateNotice_of_stepEmits h⟩⟩

end Sys2Proof.Machine

/-! The statements of the encoding document: the decode word (R55, R56), the opcode table, the Speed Byte's operand
(R54) and the pseudo-instructions (R60). -/

namespace Sys2Proof

/-! ### The decoder by the ranges of R56 -/

/-- The unrecognised bytes: the whole byte is compared (R52). -/
theorem decode_idle_of_five_le {b : Byte} (h : 5 ≤ b.toNat) : decode .idle b = .nopu b := by
  simp only [decode]
  rw [if_neg (by bv_omega), if_neg (by bv_omega), if_neg (by bv_omega), if_neg (by bv_omega), if_neg (by bv_omega)]

theorem decode_awaitingSpeed_of_lt {b : Byte} (ch : Channel) (low : 2 ≤ b.toNat) (high : b.toNat < 128) :
    decode (.awaitingSpeed ch) b = .spdrev ch b := by
  simp only [decode]
  rw [if_neg (by bv_omega), if_neg (by bv_omega), if_pos high]

theorem decode_awaitingSpeed_of_le {b : Byte} (ch : Channel) (h : 128 ≤ b.toNat) :
    decode (.awaitingSpeed ch) b = .spdfwd ch b := by
  simp only [decode]
  rw [if_neg (by bv_omega), if_neg (by bv_omega), if_neg (by omega)]

/-- A well-formed instruction is what its byte decodes to in its MODE: `decode_mode` and `decode_byte` the other way. -/
theorem decode_of_wellFormed {i : Instr} (h : i.wellFormed = true) : decode i.mode i.byte = i := by
  cases i with
  | nopu b =>
    have range : 5 ≤ b.toNat := by simpa [Instr.wellFormed] using h
    exact decode_idle_of_five_le range
  | spdrev ch b =>
    obtain ⟨low, high⟩ : 2 ≤ b.toNat ∧ b.toNat ≤ 127 := by simpa [Instr.wellFormed] using h
    exact decode_awaitingSpeed_of_lt ch low (Nat.lt_succ_of_le high)
  | spdfwd ch b =>
    have range : 128 ≤ b.toNat := by simpa [Instr.wellFormed] using h
    exact decode_awaitingSpeed_of_le ch range
  | _ => rfl

/-- Every byte decodes to an instruction whose row holds it. -/
theorem decode_wellFormed (m : Mode) (b : Byte) : (decode m b).wellFormed = true := by
  cases m with
  | idle =>
    by_cases h : 5 ≤ b.toNat
    · simpa [decode_idle_of_five_le h, Instr.wellFormed] using h
    · simp only [decode]
      split_ifs
      case neg => bv_omega
      all_goals rfl
  | awaitingSpeed ch =>
    by_cases low : b.toNat < 2
    · obtain rfl | rfl : b = 0 ∨ b = 1 := by bv_omega
      · rfl
      · rfl
    by_cases high : b.toNat < 128
    · rw [decode_awaitingSpeed_of_lt ch (by omega) high]
      simp only [Instr.wellFormed, Bool.and_eq_true, decide_eq_true_eq]
      omega
    · rw [decode_awaitingSpeed_of_le ch (by omega)]
      simpa [Instr.wellFormed] using high

/-! ### The decode word -/

theorem decodeWord_append (m : Mode) (b : Byte) : decodeWord (modeBits m ++ b) = .ok (decode m b) := by
  simp only [decodeWord, wordModeBits_append, wordByte_append, modeOfBits_modeBits]

/-- Two bits are a state's, or they are the pair that is no state. -/
theorem modeBits_surjective_but_one (x : BitVec 2) :
    (x = 0b01 ∧ modeOfBits x = .error .modeNotAState) ∨ (x ≠ 0b01 ∧ ∃ m, modeBits m = x) := by
  have : x = 0b00 ∨ x = 0b01 ∨ x = 0b10 ∨ x = 0b11 := by revert x; decide
  obtain rfl | rfl | rfl | rfl := this
  · exact .inr ⟨by decide, .idle, rfl⟩
  · exact .inl ⟨rfl, rfl⟩
  · exact .inr ⟨by decide, .awaitingSpeed 0, rfl⟩
  · exact .inr ⟨by decide, .awaitingSpeed 1, rfl⟩

/-- Settles O1: the word's fields are the instruction's MODE and byte, and these decode to it
(`decode_of_wellFormed`). -/
theorem decodeEncodeRoundTrip : Obligations.DecodeEncodeRoundTrip := by
  intro i h
  rw [encode, decodeWord_append, decode_of_wellFormed h]

/-- Settles O2: a word whose mode bits are a state's is that state's bits and its byte, and a decoded instruction keeps
both. -/
theorem decodedWordEncodesBack : Obligations.DecodedWordEncodesBack := by
  intro w
  obtain ⟨bits, refused⟩ | ⟨bits, m, hm⟩ := modeBits_surjective_but_one (wordModeBits w)
  · exact .inl ⟨bits, by simp only [decodeWord, refused]⟩
  · have word : modeBits m ++ wordByte w = w := by rw [hm, append_fields]
    refine .inr ⟨bits, decode m (wordByte w), ?_, decode_wellFormed m _, ?_⟩
    · rw [← decodeWord_append, word]
    · rw [encode, decode_mode, decode_byte, word]

/-- Settles O4: ten closed words. -/
theorem writtenOutWordsDecode : Obligations.WrittenOutWordsDecode := by
  unfold Obligations.WrittenOutWordsDecode
  decide

/-! ### The opcode table -/

/-- The rows are of two formats, or their patterns differ in a bit that both rows look at. -/
def Row.apart (p q : Row) : Bool :=
  p.format != q.format || p.mask &&& q.mask &&& (p.pattern ^^^ q.pattern) != 0

theorem Row.selects_iff {r : Row} {m : Mode} {b : Byte} :
    r.selects m b = true ↔ r.format = m.format ∧ b &&& r.mask = r.pattern := by
  simp [Row.selects]

/-- Rows that are apart share no byte. -/
theorem Row.not_selects_of_apart {p q : Row} {m : Mode} {b : Byte} (h : p.apart q = true)
    (hp : p.selects m b = true) : ¬ q.selects m b = true := by
  intro hq
  obtain ⟨pFormat, pPattern⟩ := selects_iff.1 hp
  obtain ⟨qFormat, qPattern⟩ := selects_iff.1 hq
  have agree : p.mask &&& q.mask &&& (p.pattern ^^^ q.pattern) = 0 := by
    have masked_bit (x y z : Bool) : (x && y && ((z && x) ^^ (z && y))) = false := by revert x y z; decide
    rw [← pPattern, ← qPattern]
    ext i hi
    simp only [BitVec.getElem_and, BitVec.getElem_xor, masked_bit, BitVec.ofNat_eq_ofNat, BitVec.getElem_zero]
  simp [Row.apart, pFormat, qFormat, agree] at h

theorem opcodeTable_pairwise_apart : opcodeTable.Pairwise (fun p q => p.apart q = true) := by decide

theorem eq_singleton_of_pairwise {α : Type} {R : α → α → Prop} {l : List α} {a : α} (h : l.Pairwise R)
    (ha : a ∈ l) (unrelated : ∀ x ∈ l, ∀ y ∈ l, ¬ R x y) : l = [a] := by
  match l with
  | [] => cases ha
  | [x] => rw [List.mem_singleton.1 ha]
  | x :: y :: _ =>
    exact absurd (List.rel_of_pairwise_cons h List.mem_cons_self) (unrelated x (by simp) y (by simp))

/-- A row that selects a byte is the only one. -/
theorem filter_selects_eq {r : Row} {m : Mode} {b : Byte} (hr : r ∈ opcodeTable) (h : r.selects m b = true) :
    opcodeTable.filter (fun r => r.selects m b) = [r] :=
  eq_singleton_of_pairwise (opcodeTable_pairwise_apart.filter _) (List.mem_filter.2 ⟨hr, h⟩)
    fun _ hp _ hq apart => Row.not_selects_of_apart apart (List.mem_filter.1 hp).2 (List.mem_filter.1 hq).2

/-- Every well-formed instruction has a row of its name. -/
theorem rowSelected (i : Instr) : Laws.RowSelected.Statement i := by
  cases i with
  | nop => exact Laws.RowSelected.nop
  | ver => exact Laws.RowSelected.ver
  | sel0 => exact Laws.RowSelected.sel0
  | sel1 => exact Laws.RowSelected.sel1
  | upd => exact Laws.RowSelected.upd
  | nopu b => exact Laws.RowSelected.nopu b
  | spdnop ch => exact Laws.RowSelected.spdnop ch
  | spddis ch => exact Laws.RowSelected.spddis ch
  | spdrev ch b => exact Laws.RowSelected.spdrev ch b
  | spdfwd ch b => exact Laws.RowSelected.spdfwd ch b

theorem exists_row_of_decode (m : Mode) (b : Byte) :
    ∃ r ∈ opcodeTable, r.mnemonic = (decode m b).mnemonic ∧ r.selects m b = true := by
  simpa using rowSelected (decode m b) (decode_wellFormed m b)

/-- Settles O3: the decoded instruction has a row (`exists_row_of_decode`), and no second row selects its byte, since
any two rows are apart (`opcodeTable_pairwise_apart`). -/
theorem exactlyOneTableRowPerByte : Obligations.ExactlyOneTableRowPerByte := by
  intro m b
  obtain ⟨r, hr, mnemonic, selects⟩ := exists_row_of_decode m b
  rw [filter_selects_eq hr selects, List.map_singleton, mnemonic]

end Sys2Proof

namespace Sys2Proof.Machine

/-! ### The Speed Byte's operand -/

theorem signed_neg_iff {b : Byte} : signed b < 0 ↔ b.toNat < 128 := by
  unfold signed
  omega

theorem direction_eq_reverse_iff {b : Byte} : direction b = .reverse ↔ b.toNat < 128 := by
  rw [← signed_neg_iff, direction]
  split <;> simp [*]

theorem direction_eq_reverse {b : Byte} (h : b.toNat < 128) : direction b = .reverse := direction_eq_reverse_iff.2 h

theorem direction_eq_forward {b : Byte} (h : 128 ≤ b.toNat) : direction b = .forward :=
  if_neg (by rw [signed_neg_iff]; omega)

theorem magnitude_eq_reverseMagnitude {b : Byte} (h : b.toNat < 128) : magnitude b = reverseMagnitude b := by
  unfold magnitude signed reverseMagnitude
  omega

theorem magnitude_eq_forwardMagnitude {b : Byte} (h : 128 ≤ b.toNat) : magnitude b = forwardMagnitude b := by
  unfold magnitude signed forwardMagnitude
  omega

theorem bit7_eq_true_iff {b : Byte} : b.getLsbD 7 = true ↔ 128 ≤ b.toNat := by
  rw [← decide_eq_true_iff (p := 128 ≤ b.toNat), ← BitVec.msb_eq_decide b, BitVec.msb_eq_getLsbD_last]

theorem bit7_eq_false_iff {b : Byte} : b.getLsbD 7 = false ↔ b.toNat < 128 := by
  rw [← Bool.not_eq_true, bit7_eq_true_iff, not_le]

theorem low7_toNat (b : Byte) : (b.extractLsb' 0 7).toNat = b.toNat % 128 := by simp

/-- The XOR keeps bits 6:0 and turns bit 7 round, which is the sign. -/
theorem signed_eq_toInt_xor (b : Byte) : signed b = (b ^^^ 0x80#8).toInt := by
  have low : (b ^^^ 0x80#8).toNat % 2 ^ 7 = b.toNat % 2 ^ 7 := by
    rw [BitVec.toNat_xor, Nat.xor_mod_two_pow]
    simp
  have high : 128 ≤ (b ^^^ 0x80#8).toNat ↔ ¬ 128 ≤ b.toNat := by
    rw [← bit7_eq_true_iff, ← bit7_eq_true_iff, BitVec.getLsbD_xor]
    simp
  have := b.isLt
  have := (b ^^^ 0x80#8).isLt
  rw [BitVec.toInt_eq_toNat_cond, signed]
  split <;> omega

/-- Settles O24, each form by the byte's number: bit 7 says whether it is at least 128 (`bit7_eq_true_iff`). -/
theorem speedOperandForms : Obligations.SpeedOperandForms := by
  intro b h0 h1
  have low : 2 ≤ b.toNat := by bv_omega
  have high : b.toNat < 256 := b.isLt
  refine ⟨rfl, ?_, ?_, rfl, rfl, signed_eq_toInt_xor b, ?_, fun h => ?_, fun h => ?_⟩
  · unfold signed; omega
  · unfold signed; omega
  · rw [direction_eq_reverse_iff, bit7_eq_false_iff]
  · have h := bit7_eq_true_iff.1 h
    rw [magnitude_eq_forwardMagnitude h, low7_toNat]
    unfold forwardMagnitude
    omega
  · have h := bit7_eq_false_iff.1 h
    rw [magnitude_eq_reverseMagnitude h, low7_toNat, Nat.mod_eq_of_lt h, reverseMagnitude]

/-! ### A channel selected and its Speed Byte -/

/-- A drive is the translator's three events (R90, R97). -/
theorem perform_driveScript_apply {ch : Channel} {b : Byte} (h0 : b ≠ 0) (h1 : b ≠ 1) (s : State) :
    perform (driveScript ch (direction b) (magnitude b)) s =
      { s with mode := .idle, trace := s.trace ++ (apply ch b).getD [] } := by
  rw [perform_driveScript, apply, if_neg h0, if_neg h1, Option.getD_some]

/-- A Speed Byte command emits what `apply` answers, nothing for byte 0, and ends in `Idle` (R91, R93 to R95). -/
theorem perform_script_speedByte (ch : Channel) (b : Byte) (s : State) :
    perform (script (decode (.awaitingSpeed ch) b)) s =
      { s with mode := .idle, trace := s.trace ++ (apply ch b).getD [] } := by
  by_cases h0 : b = 0
  · subst h0
    simp [decode, script, scriptSpdnop, doAction, State.setMode, apply]
  by_cases h1 : b = 1
  · subst h1
    rfl
  rw [← perform_driveScript_apply h0 h1]
  rcases Nat.lt_or_ge b.toNat 128 with h | h
  · rw [decode_awaitingSpeed_of_lt ch (by bv_omega) h, direction_eq_reverse h, magnitude_eq_reverseMagnitude h]
    rfl
  · rw [decode_awaitingSpeed_of_le ch h, direction_eq_forward h, magnitude_eq_forwardMagnitude h]
    rfl

/-- The byte `0x02 + ch` is `SEL0` or `SEL1` (R60, R73, R74). -/
theorem perform_script_selectByte (ch : Channel) (s : State) :
    perform (script (decode .idle (selectByte ch))) s = { s with mode := .awaitingSpeed ch } := by
  fin_cases ch <;> rfl

/-- `SPEED ch, b` sent to an idle block: its select byte's step, then its Speed Byte's. -/
theorem run_speed {s : State} {ch : Channel} {b : Byte} {rest : List Input} (hp : s.phase = .running)
    (hm : s.mode = .idle) (hc : cutting rest = none) (hi : s.inputs = (Pseudo.speed ch b).expand.map .rx ++ rest) :
    Host.Core.run Sys2Proof.core 2 s =
      .next { s with inputs := rest, trace := s.trace ++ (apply ch b).getD [] } := by
  have select : step s = .next { s with mode := .awaitingSpeed ch, inputs := .rx b :: rest } := by
    rw [step_byteReady ⟨hp, hi, rfl⟩, hm, perform_script_selectByte]
    rfl
  have ready : ByteReady { s with mode := .awaitingSpeed ch, inputs := .rx b :: rest } b rest := ⟨hp, rfl, hc⟩
  rw [run_succ 1 select, run_succ 0 (step_byteReady ready), perform_script_speedByte, ← hm]
  rfl

/-- In both formats byte 0 only sets MODE (R59, R71, R91). -/
theorem perform_script_zeroByte (m : Mode) (s : State) :
    perform (script (decode m 0)) s = { s with mode := .idle } := by
  cases m <;> rfl

/-! ### The pseudo-instructions -/

/-- `v + 128` is a byte (R60). -/
theorem toNat_ofInt_add_128 {v : Int} (low : -128 ≤ v) (high : v ≤ 127) :
    ((BitVec.ofInt 8 (v + 128)).toNat : Int) = v + 128 := by
  rw [BitVec.toNat_ofInt]
  omega

theorem signed_ofInt {v : Int} (low : -128 ≤ v) (high : v ≤ 127) : signed (BitVec.ofInt 8 (v + 128)) = v := by
  rw [signed, toNat_ofInt_add_128 low high]
  omega

/-- What the translator answers to the byte of a signed speed: from -126 on it is neither 0 nor 1. -/
theorem apply_ofInt (ch : Channel) {v : Int} (low : -126 ≤ v) (high : v ≤ 127) :
    apply ch (BitVec.ofInt 8 (v + 128)) = some [.drvEnable ch,
      .drvSetDirection ch (if v < 0 then .reverse else .forward), .drvSetMagnitude ch v.natAbs] := by
  have value : signed (BitVec.ofInt 8 (v + 128)) = v := signed_ofInt (by omega) high
  have not_below (k : Byte) (hk : k.toNat < 2) : BitVec.ofInt 8 (v + 128) ≠ k := by
    intro h
    rw [h, signed] at value
    omega
  rw [apply, if_neg (not_below 0 (by decide)), if_neg (not_below 1 (by decide)), direction, magnitude, value]

/-- Settles O49: `DRIVE ch, v` expands to `SPEED` of the byte `v + 128` (`run_speed`, `apply_ofInt`). -/
theorem driveDrivesAtSignedSpeed : Obligations.DriveDrivesAtSignedSpeed := by
  intro s ch v rest hp hm hc allowed hi
  obtain ⟨low, high⟩ : -126 ≤ v ∧ v ≤ 127 := by simpa [Pseudo.allowed] using allowed
  have run := run_speed (b := BitVec.ofInt 8 (v + 128)) hp hm hc hi
  rwa [apply_ofInt ch low high] at run

/-- Settles O50: `DISABLE ch` is `SPEED ch, 1` (`run_speed`), and `RESYNC` is byte 0 in whatever MODE
(`perform_script_zeroByte`). -/
theorem speedDisableResyncRun : Obligations.SpeedDisableResyncRun := by
  intro s rest hp hc
  refine ⟨fun ch b evs hm hi hevs => ?_, fun ch hm hi => ?_, fun hi => ?_⟩
  · have answer : (apply ch b).getD [] = evs := by
      rcases hevs with ⟨rfl, rfl⟩ | happly
      · rfl
      · rw [happly, Option.getD_some]
    rw [run_speed hp hm hc hi, answer]
  · exact run_speed (b := 1) hp hm hc hi
  · rw [run_succ 0 (step_byteReady ⟨hp, hi, hc⟩), perform_script_zeroByte]
    rfl

end Sys2Proof.Machine

/-! The statements of the Command Code document: the commands of Mode Idle (R71 to R76), the transition table (R81) and
its consequences (R70, R77, R79, R80). -/

namespace Sys2Proof.Machine

/-! ### The commands of Mode Idle, each as one update of the state -/

theorem with_mode_eq_self {s : State} {m : Mode} (h : s.mode = m) : { s with mode := m } = s := by
  subst h
  rfl

theorem exec_nop (s : State) : exec .nop s = .next { s with mode := .idle } := rfl

theorem exec_ver (s : State) :
    exec .ver s = .next { s with mode := .idle, trace := s.trace ++ [.txVersionLine] } := rfl

theorem exec_sel0 (s : State) : exec .sel0 s = .next { s with mode := .awaitingSpeed 0 } := rfl

theorem exec_sel1 (s : State) : exec .sel1 s = .next { s with mode := .awaitingSpeed 1 } := rfl

theorem exec_upd (s : State) : exec .upd s = .next { s with
    phase := .awaitReset, sent := Config.MAGIC,
    trace := s.trace ++ [.txUpdateNotice, .memWrite Config.SENTINEL_ADDR 4 Config.MAGIC, .resetRequest] } := by
  rw [exec_eq_perform, script, scriptUpd, perform_enterUpdateMode]

/-- The byte value is discarded (R76). -/
theorem exec_nopu (b : Byte) (s : State) : exec (.nopu b) s = exec .nop s := rfl

theorem exec_nop_of_idle {s : State} (h : s.mode = .idle) : exec .nop s = .next s := by
  rw [exec_nop, with_mode_eq_self h]

theorem exec_nopu_of_idle (b : Byte) {s : State} (h : s.mode = .idle) : exec (.nopu b) s = .next s := by
  rw [exec_nopu, exec_nop_of_idle h]

theorem exec_ver_of_idle {s : State} (h : s.mode = .idle) :
    exec .ver s = .next { s with trace := s.trace ++ [.txVersionLine] } := by
  rw [exec_ver, ← h]

/-- Settles O13: the one assignment of `NOP` (`exec_nop`) changes nothing in `Idle`. -/
theorem nopChangesNothing : Obligations.NopChangesNothing := ⟨rfl, exec_nop, fun _ => exec_nop_of_idle⟩

/-- Settles O14: `VER` emits its line and sets MODE (`exec_ver`), which in `Idle` changes nothing. -/
theorem verEmitsVersionLine : Obligations.VerEmitsVersionLine :=
  ⟨rfl, rfl, fun _ => rfl, exec_ver, fun _ => exec_ver_of_idle⟩

/-- Settles O15: a decoded instruction is one of the MODE it was decoded in (`decode_mode`). -/
theorem selSelectsChannel : Obligations.SelSelectsChannel :=
  ⟨rfl, rfl, exec_sel0, exec_sel1, decode_mode _, decode_mode _⟩

/-- Settles O16: `UPD` halts the block (`exec_upd`), and a halted block leaves a byte at the link
(`step_byteUnread`). -/
theorem updEntersUpdateMode : Obligations.UpdEntersUpdateMode :=
  ⟨rfl, fun _ => rfl, fun s => ⟨_, exec_upd s, rfl, fun _ _ =>
    ⟨_, step_byteUnread (.inl rfl) rfl, rfl, rfl, rfl, rfl⟩⟩⟩

/-- Settles O17: every byte from 5 on is `NOPU`, whose meaning is that of `NOP` (`exec_nopu`). -/
theorem nopuActsAsNop : Obligations.NopuActsAsNop := fun b range =>
  ⟨decode_idle_of_five_le range, fun s => (exec_nopu b s).trans (exec_nop s), exec_nopu b,
    fun _ => exec_nopu_of_idle b⟩

/-! ### The transition table -/

/-- Settles O5: each side performs the decoded instruction's sequence. -/
theorem stepRunsDecodedByte : Obligations.StepRunsDecodedByte := fun _ _ _ ready =>
  (step_byteReady ready).trans (exec_eq_perform _ _).symm

theorem step_of_decode {s : State} {b : Byte} {rest : List Input} {m : Mode} {i : Instr} (ready : ByteReady s b rest)
    (hm : s.mode = m) (h : decode m b = i) : step s = exec i { s with inputs := rest } := by
  rw [stepRunsDecodedByte s b rest ready, hm, h]

/-- The MODE and the byte that a well-formed instruction is decoded from (R56). -/
theorem decode_eq_iff {m : Mode} {b : Byte} {i : Instr} (h : i.wellFormed = true) :
    decode m b = i ↔ m = i.mode ∧ b = i.byte := by
  constructor
  · rintro rfl
    exact ⟨(decode_mode m b).symm, (decode_byte m b).symm⟩
  · rintro ⟨rfl, rfl⟩
    exact decode_of_wellFormed h

/-- Only a selection leaves `Idle`. -/
theorem perform_script_mode_ne_idle_iff {i : Instr} {s : State} (h : s.mode = .idle) :
    (perform (script i) s).mode ≠ .idle ↔ i = .sel0 ∨ i = .sel1 := by
  cases i with
  | upd => simp [script, scriptUpd, perform_enterUpdateMode, h]
  | sel0 => simp [script, scriptSel0, doAction]
  | sel1 => simp [script, scriptSel1, doAction]
  | _ => simp [script, scriptNop, scriptVer, scriptNopu, scriptSpdnop, scriptSpddis, scriptSpdrev, scriptSpdfwd,
      driveScript, doAction]

/-- Only `UPD` leaves `Running`. -/
theorem perform_script_phase_ne_running_iff {i : Instr} {s : State} (h : s.phase = .running) :
    (perform (script i) s).phase ≠ .running ↔ i = .upd := by
  by_cases hi : i = .upd
  · simp [hi, perform_script_upd_phase]
  · simp [hi, perform_script_phase s hi, h]

/-- Which bytes leave `Idle`, and which leave `Running`. -/
theorem idle_step_leaves_iff {s t : State} {b : Byte} {rest : List Input} (ready : ByteReady s b rest)
    (hm : s.mode = .idle) (h : step s = .next t) :
    (t.mode ≠ .idle ↔ b = 0x02 ∨ b = 0x03) ∧ (t.phase ≠ .running ↔ b = 0x04) := by
  obtain rfl := Host.Outcome.next.inj ((step_byteReady ready).symm.trans h)
  obtain ⟨hp, _, _⟩ := ready
  refine ⟨(perform_script_mode_ne_idle_iff (s := { s with inputs := rest }) hm).trans ?_,
    (perform_script_phase_ne_running_iff (s := { s with inputs := rest }) hp).trans ?_⟩
  · rw [decode_eq_iff rfl, decode_eq_iff rfl]
    simp [hm, Instr.mode, Instr.byte]
  · rw [decode_eq_iff rfl]
    simp [hm, Instr.mode, Instr.byte]

theorem apply_of_lt {b : Byte} (ch : Channel) (low : 2 ≤ b.toNat) (high : b.toNat < 128) :
    apply ch b = some [.drvEnable ch, .drvSetDirection ch .reverse, .drvSetMagnitude ch (128 - b.toNat)] := by
  have h0 : b ≠ 0 := by bv_omega
  have h1 : b ≠ 1 := by bv_omega
  rw [apply, if_neg h0, if_neg h1, direction_eq_reverse high, magnitude_eq_reverseMagnitude high]
  rfl

theorem apply_of_le {b : Byte} (ch : Channel) (h : 128 ≤ b.toNat) :
    apply ch b = some [.drvEnable ch, .drvSetDirection ch .forward, .drvSetMagnitude ch (b.toNat - 128)] := by
  have h0 : b ≠ 0 := by bv_omega
  have h1 : b ≠ 1 := by bv_omega
  rw [apply, if_neg h0, if_neg h1, direction_eq_forward h, magnitude_eq_forwardMagnitude h]
  rfl

/-- A Speed Byte's whole step: the selection is consumed, and `apply`'s events are emitted (R80, R90). -/
theorem step_speedByte {s : State} {b : Byte} {rest : List Input} {ch : Channel} (ready : ByteReady s b rest)
    (hm : s.mode = .awaitingSpeed ch) :
    step s = .next { s with inputs := rest, mode := .idle, trace := s.trace ++ (apply ch b).getD [] } := by
  rw [step_byteReady ready, hm, perform_script_speedByte]

theorem step_speedByte_of_apply {s : State} {b : Byte} {rest : List Input} {ch : Channel} {evs : List OutEvent}
    (ready : ByteReady s b rest) (hm : s.mode = .awaitingSpeed ch) (h : apply ch b = some evs) :
    step s = .next { s with inputs := rest, mode := .idle, trace := s.trace ++ evs } := by
  rw [step_speedByte ready hm, h, Option.getD_some]

theorem step_zeroByte {s : State} {rest : List Input} (ready : ByteReady s 0 rest) :
    step s = .next { s with inputs := rest, mode := .idle } := by
  rw [step_byteReady ready, perform_script_zeroByte]

/-- Settles O12: of what a step of a running block can do, a whole Speed Byte step and every reset end in `Idle`. -/
theorem selectionWaitsOrIsConsumed : Obligations.SelectionWaitsOrIsConsumed := by
  intro s t ch hp hm h
  cases step_cases h with
  | waits _ inputs result => exact .inl ⟨inputs, result⟩
  | byte b rest _ result => right; rw [result, hm, perform_script_speedByte]
  | byteCut _ _ _ _ _ _ result => right; rw [result]; rfl
  | boot phase _ _ => simp [hp] at phase
  | bootCut _ _ _ phase _ _ => simp [hp] at phase
  | resetTaken _ _ _ _ result => right; rw [result, takeReset_mode]
  | byteUnread _ _ phase _ _ => simp [hp] at phase

/-- Settles O9: a row of `Idle` is its command's update (`step_of_decode`), a row of `AwaitingSpeed` is what `apply`
answers (`step_speedByte_of_apply`). -/
theorem transitionTableHolds : Obligations.TransitionTableHolds := by
  intro s b rest ready
  refine ⟨fun hm => ⟨?nop, ?ver, ?sel0, ?sel1, ?upd, fun range => ?nopu, fun t => idle_step_leaves_iff ready hm⟩,
    fun ch hm => ⟨?spdnop, ?spddis, fun low high => ?spdrev, fun range => ?spdfwd, fun t h => ?toIdle⟩⟩
  case nop => rintro rfl; exact (step_of_decode ready hm rfl).trans (exec_nop_of_idle hm)
  case ver => rintro rfl; exact (step_of_decode ready hm rfl).trans (exec_ver_of_idle hm)
  case sel0 => rintro rfl; exact (step_of_decode ready hm rfl).trans (exec_sel0 _)
  case sel1 => rintro rfl; exact (step_of_decode ready hm rfl).trans (exec_sel1 _)
  case upd => rintro rfl; exact (step_of_decode ready hm rfl).trans (exec_upd _)
  case nopu => exact (step_of_decode ready hm (decode_idle_of_five_le range)).trans (exec_nopu_of_idle b hm)
  case spdnop => rintro rfl; exact step_zeroByte ready
  case spddis => rintro rfl; exact step_speedByte_of_apply ready hm rfl
  case spdrev => exact step_speedByte_of_apply ready hm (apply_of_lt ch low (Nat.lt_succ_of_le high))
  case spdfwd => exact step_speedByte_of_apply ready hm (apply_of_le ch range)
  case toIdle =>
    rw [step_speedByte ready hm] at h
    cases h
    rfl

/-! ### Waiting and resynchronising -/

/-- Settles O11, by induction on the number of steps. -/
theorem waitsWithoutTimeout : Obligations.WaitsWithoutTimeout := by
  intro n s hp hi
  induction n with
  | zero => rfl
  | succ n ih => rw [run_succ n (step_waits (by simp [hp]) hi), ih]

theorem cutting_zeroBytes_append (n : Nat) {rest : List Input} (h : cutting rest = none) :
    cutting (List.replicate n (.rx 0) ++ rest) = none := by
  cases n with
  | zero => exact h
  | succ n => rfl

/-- Settles O10, by induction on the number of bytes: the first leads to `Idle`, from any MODE (`step_zeroByte`). -/
theorem zeroBytesResynchronise : Obligations.ZeroBytesResynchronise := by
  intro n
  induction n with
  | zero =>
    intro s rest hp hc hi
    rw [run_succ 0 (step_zeroByte ⟨hp, hi, hc⟩)]
    rfl
  | succ n ih =>
    intro s rest hp hc hi
    have first := step_zeroByte ⟨hp, hi, cutting_zeroBytes_append (n + 1) hc⟩
    exact (run_succ (n + 1) first).trans (ih _ rest hp hc rfl)

/-! ### Which events belong to which MODE (R80) -/

/-- The channel whose Speed Byte is awaited. -/
def selectedChannel : Mode → Option Channel
  | .idle => none
  | .awaitingSpeed ch => some ch

/-- A Command Code emits no driver event, a Speed Byte driver events of its channel alone. -/
theorem eventChannel_of_mem_script (v : Word) (i : Instr) :
    ∀ e ∈ scriptEvents v (script i), eventChannel e = selectedChannel i.mode := by
  cases i <;> simp [script, scriptNop, scriptVer, scriptSel0, scriptSel1, scriptUpd, enterUpdateMode, scriptNopu,
    scriptSpdnop, scriptSpddis, scriptSpdrev, scriptSpdfwd, driveScript, scriptEvents, eventChannel, selectedChannel,
    Instr.mode]

/-- Cut or not, a running block's step emits events of its MODE's format. -/
theorem eventChannel_of_stepEmits {s t : State} {evs : List OutEvent} (hp : s.phase = .running)
    (h : StepEmits s t evs) {e : OutEvent} (he : e ∈ evs) : eventChannel e = selectedChannel s.mode := by
  cases h.events with
  | silent _ events => simp [events] at he
  | byte b _ _ _ events => rw [eventChannel_of_mem_script _ _ e (events.subset he), decode_mode]
  | boot phase _ _ => simp [hp] at phase

theorem decode_idle_mem (b : Byte) : decode .idle b ∈ [.nop, .ver, .sel0, .sel1, .upd, .nopu b] := by
  simp only [decode]
  split_ifs <;> simp

theorem decode_awaitingSpeed_mem (ch : Channel) (b : Byte) :
    decode (.awaitingSpeed ch) b ∈ [.spdnop ch, .spddis ch, .spdrev ch b, .spdfwd ch b] := by
  simp only [decode]
  split_ifs <;> simp

/-- `apply` has a meaning on every byte but 0 (R92). -/
theorem apply_eq_some_getD {b : Byte} (ch : Channel) (h : b ≠ 0) : apply ch b = some ((apply ch b).getD []) := by
  rw [apply, if_neg h]
  split <;> rfl

/-- Settles O28: MODE alone selects the decoder's half, and with it the events (`eventChannel_of_stepEmits`). -/
theorem noCommandCodeWhileAwaiting : Obligations.NoCommandCodeWhileAwaiting := by
  refine ⟨fun ch b => ⟨decode_awaitingSpeed_mem ch b, fun s rest ready hm => ?speedByte⟩, fun ch => ?writtenOut,
    decode_idle_mem, fun s t evs hp h => ⟨fun ch hm e he => ?awaiting, fun hm e he => ?idle⟩⟩
  case speedByte =>
    refine ⟨(apply ch b).getD [], ?_, step_speedByte ready hm⟩
    by_cases hb : b = 0
    · exact .inl ⟨hb, by rw [hb]; rfl⟩
    · exact .inr ⟨hb, apply_eq_some_getD ch hb⟩
  case writtenOut =>
    exact ⟨rfl, apply_of_lt ch (b := 2) (by decide) (by decide), apply_of_lt ch (b := 3) (by decide) (by decide),
      apply_of_lt ch (b := 4) (by decide) (by decide)⟩
  case awaiting => rw [eventChannel_of_stepEmits hp h he, hm, selectedChannel]
  case idle => rw [eventChannel_of_stepEmits hp h he, hm, selectedChannel]

/-! ### What a byte's step reads (R70) -/

/-- No command's events hold the content of the cell, since none reads it (R22). -/
theorem scriptEvents_script_congr (v w : Word) (i : Instr) :
    scriptEvents v (script i) = scriptEvents w (script i) := by
  cases i <;> rfl

/-- MODE and PHASE after a sequence depend on no other field. -/
theorem perform_mode_phase_congr (as : List Action) {s s' : State} (hm : s.mode = s'.mode)
    (hp : s.phase = s'.phase) :
    (perform as s).mode = (perform as s').mode ∧ (perform as s).phase = (perform as s').phase := by
  induction as generalizing s s' with
  | nil => exact ⟨hm, hp⟩
  | cons a as ih =>
    cases a with
    | emit e => exact ih hm hp
    | readSent => exact ih hm hp
    | writeSent v => exact ih hm hp
    | setMode m => exact ih rfl hp
    | setPhase p => exact ih hm rfl

/-- Settles O48: both blocks perform the same sequence, and neither its events nor the MODE and PHASE it ends in depend
on the rest of the state. -/
theorem stepReadsModeAndByteOnly : Obligations.StepReadsModeAndByteOnly := by
  intro s s' b rest rest' ready ready' hm
  have hstep := step_byteReady ready
  have hstep' := step_byteReady ready'
  have same_instr : decode s'.mode b = decode s.mode b := by rw [hm]
  rw [same_instr] at hstep'
  obtain ⟨hp, _, _⟩ := ready
  obtain ⟨hp', _, _⟩ := ready'
  obtain ⟨mode, phase⟩ := perform_mode_phase_congr (script (decode s.mode b)) (s := { s with inputs := rest })
    (s' := { s' with inputs := rest' }) hm (hp.trans hp'.symm)
  refine ⟨scriptEvents s.sent (script (decode s.mode b)), _, _, ⟨hstep, perform_trace _ _⟩, ⟨hstep', ?_⟩, mode, phase,
    perform_inputs _ _, perform_inputs _ _⟩
  rw [perform_trace, scriptEvents_script_congr s.sent s'.sent]

end Sys2Proof.Machine

/-! The statements of the Speed Byte document: the commands of Mode AwaitingSpeed (R91, R93 to R95), the Command
Translator (R90, R92), its arithmetic (R96) and the driver events of any step (R98, R166). -/

namespace Sys2Proof.Machine

/-! ### The commands of Mode AwaitingSpeed, each as one update of the state -/

theorem exec_spdnop (ch : Channel) (s : State) : exec (.spdnop ch) s = .next { s with mode := .idle } := rfl

theorem exec_spddis (ch : Channel) (s : State) :
    exec (.spddis ch) s = .next { s with mode := .idle, trace := s.trace ++ [.drvDisable ch] } := rfl

theorem exec_spdrev (ch : Channel) (b : Byte) (s : State) : exec (.spdrev ch b) s = .next { s with
    mode := .idle,
    trace := s.trace ++ [.drvEnable ch, .drvSetDirection ch .reverse, .drvSetMagnitude ch (reverseMagnitude b)] } :=
  congrArg Host.Outcome.next (perform_driveScript ch .reverse _ s)

theorem exec_spdfwd (ch : Channel) (b : Byte) (s : State) : exec (.spdfwd ch b) s = .next { s with
    mode := .idle,
    trace := s.trace ++ [.drvEnable ch, .drvSetDirection ch .forward, .drvSetMagnitude ch (forwardMagnitude b)] } :=
  congrArg Host.Outcome.next (perform_driveScript ch .forward _ s)

/-- Settles O18: the one assignment of `SPDNOP` (`exec_spdnop`). -/
theorem spdnopSuppresses : Obligations.SpdnopSuppresses := fun ch => ⟨rfl, exec_spdnop ch⟩

/-- Settles O19: `SPDDIS` emits its event and sets MODE (`exec_spddis`). -/
theorem spddisDisablesOnly : Obligations.SpddisDisablesOnly := fun ch => ⟨rfl, exec_spddis ch⟩

/-- Settles O20: the reverse half of the bytes is `SPDREV`'s, whose drive is `exec_spdrev`. -/
theorem spdrevDrivesReverse : Obligations.SpdrevDrivesReverse := by
  intro ch b low high
  have below : b.toNat < 128 := Nat.lt_succ_of_le high
  refine ⟨decode_awaitingSpeed_of_lt ch low below, exec_spdrev ch b, ?_, ?_, ?_⟩
  · exact magnitude_eq_reverseMagnitude below
  · omega
  · omega

/-- Settles O21: the upper half of the bytes is `SPDFWD`'s, whose drive is `exec_spdfwd`; above 128 a byte is its low
seven bits. -/
theorem spdfwdDrivesForward : Obligations.SpdfwdDrivesForward := by
  intro ch b low
  have high : b.toNat < 256 := b.isLt
  refine ⟨decode_awaitingSpeed_of_le ch low, exec_spdfwd ch b, magnitude_eq_forwardMagnitude low, ?bits, ?_, ?zero⟩
  case bits =>
    rw [low7_toNat]
    omega
  case zero => bv_omega
  · omega

/-! ### The translator's answers (R90, R92) -/

theorem apply_one (ch : Channel) : apply ch 1 = some [.drvDisable ch] := rfl

theorem apply_drive {b : Byte} (ch : Channel) (h0 : b ≠ 0) (h1 : b ≠ 1) :
    apply ch b = some [.drvEnable ch, .drvSetDirection ch (direction b), .drvSetMagnitude ch (magnitude b)] := by
  rw [apply, if_neg h0, if_neg h1]

theorem apply_eq_none_iff {ch : Channel} {b : Byte} : apply ch b = none ↔ b = 0 := by
  constructor
  · intro h
    by_contra h0
    exact nomatch h.symm.trans (apply_eq_some_getD ch h0)
  · rintro rfl
    rfl

/-- All that the translator can answer. -/
theorem apply_cases {ch : Channel} {b : Byte} {evs : List OutEvent} (h : apply ch b = some evs) :
    (b = 1 ∧ evs = [.drvDisable ch]) ∨
    (b ≠ 0 ∧ b ≠ 1 ∧
      evs = [.drvEnable ch, .drvSetDirection ch (direction b), .drvSetMagnitude ch (magnitude b)]) := by
  have h0 : b ≠ 0 := by
    rintro rfl
    cases h
  by_cases h1 : b = 1
  · subst h1
    exact .inl ⟨rfl, Option.some.inj (h.symm.trans (apply_one ch))⟩
  · exact .inr ⟨h0, h1, Option.some.inj (h.symm.trans (apply_drive ch h0 h1))⟩

theorem eventChannel_of_mem_apply {ch : Channel} {b : Byte} {evs : List OutEvent} (h : apply ch b = some evs) :
    ∀ e ∈ evs, eventChannel e = some ch := by
  rcases apply_cases h with ⟨_, rfl⟩ | ⟨_, _, rfl⟩
  · simp [eventChannel]
  · simp [eventChannel]

/-- Settles O22: the direction of a drive is the sign of `signed` (`apply_drive`), and the step emits what `apply`
answers (`step_speedByte`). -/
theorem translatorMatchesSpeedBytes : Obligations.TranslatorMatchesSpeedBytes := by
  intro ch b h0
  refine ⟨(apply ch b).getD [], apply_eq_some_getD ch h0, ?disable, fun h1 neg => ?reverse, fun h1 nonneg => ?forward,
    fun s rest => step_speedByte⟩
  case disable =>
    rintro rfl
    rfl
  case reverse =>
    rw [apply_drive ch h0 h1, direction_eq_reverse (signed_neg_iff.1 neg)]
    rfl
  case forward =>
    have upper : 128 ≤ b.toNat := not_lt.1 (mt signed_neg_iff.2 nonneg)
    rw [apply_drive ch h0 h1, direction_eq_forward upper]
    rfl

/-- Settles O23: `apply` answers on every other byte (`apply_eq_none_iff`), and byte 0 only sets MODE
(`step_zeroByte`). -/
theorem translatorHasNoMeaningAtZero : Obligations.TranslatorHasNoMeaningAtZero := fun _ =>
  ⟨fun _ => apply_eq_none_iff, fun _ _ ready _ => step_zeroByte ready⟩

/-! ### The arithmetic of R96 -/

theorem signed_injective : Function.Injective signed := by
  intro b c h
  unfold signed at h
  bv_omega

/-- Direction and magnitude are the sign and the amount of `signed`. -/
theorem signed_eq_of_direction_magnitude (b : Byte) :
    signed b = if direction b = .reverse then -(magnitude b : Int) else magnitude b := by
  simp only [direction_eq_reverse_iff, ← signed_neg_iff, magnitude]
  split <;> omega

theorem magnitude_eq_zero_iff {b : Byte} : magnitude b = 0 ↔ b = 0x80 := by
  have signed_mid : signed 0x80 = 0 := rfl
  rw [magnitude, Int.natAbs_eq_zero, ← signed_mid, signed_injective.eq_iff]

/-- Only byte 0, which is no drive, has the magnitude 128. -/
theorem magnitude_le_127 {b : Byte} (h : b ≠ 0) : magnitude b ≤ 127 := by
  have low : 0 < b.toNat := by bv_omega
  have high : b.toNat < 256 := b.isLt
  unfold magnitude signed
  omega

/-- Settles O25: direction and magnitude give `signed` (`signed_eq_of_direction_magnitude`), which gives the byte. -/
theorem speedByteMapOneToOne : Obligations.SpeedByteMapOneToOne := by
  intro b c _ _
  refine ⟨fun dir mag => signed_injective ?_, magnitude_eq_zero_iff, fun succ => ?_⟩
  · rw [signed_eq_of_direction_magnitude b, signed_eq_of_direction_magnitude c, dir, mag]
  · unfold signed
    omega

/-! ### The driver events of any step -/

theorem selectedChannel_eq_some_iff {m : Mode} {ch : Channel} :
    selectedChannel m = some ch ↔ m = .awaitingSpeed ch := by
  cases m <;> simp [selectedChannel]

/-- The boot sequence leaves the drivers alone. -/
theorem eventChannel_of_mem_boot (v : Word) : ∀ e ∈ scriptEvents v (bootScript v), eventChannel e = none := by
  rw [scriptEvents_boot]
  split <;> simp [eventChannel]

/-- A step that emits a driver event is a running block's on a Speed Byte of that channel, cut or not. -/
theorem StepEmits.speedByte_of_driverEvent {s t : State} {evs : List OutEvent} (h : StepEmits s t evs)
    {e : OutEvent} (he : e ∈ evs) {ch : Channel} (hch : eventChannel e = some ch) :
    s.phase = .running ∧ s.mode = .awaitingSpeed ch ∧
      ∃ b, evs <+: scriptEvents s.sent (script (decode (.awaitingSpeed ch) b)) := by
  have not_boot : e ∉ scriptEvents s.sent (bootScript s.sent) := fun hb =>
    nomatch hch.symm.trans (eventChannel_of_mem_boot _ e hb)
  obtain ⟨phase, b, _, _, events⟩ := h.byte_of_notMem_boot he not_boot
  have mode : s.mode = .awaitingSpeed ch :=
    selectedChannel_eq_some_iff.1 ((eventChannel_of_stepEmits phase h he).symm.trans hch)
  exact ⟨phase, mode, b, mode ▸ events⟩

/-- Settles O26: the boot sequence and the Command Codes emit no driver event, a Speed Byte only its channel's
(`StepEmits.speedByte_of_driverEvent`). -/
theorem driverEventsOnSelectedChannel : Obligations.DriverEventsOnSelectedChannel := by
  refine ⟨fun _ _ _ => eventChannel_of_mem_apply, fun s t evs h e he ch hch => ?_⟩
  obtain ⟨phase, mode, _⟩ := h.speedByte_of_driverEvent he hch
  exact ⟨phase, mode⟩

/-- The events of a Speed Byte command are the translator's, none for byte 0. -/
theorem scriptEvents_speedByte (s : State) (ch : Channel) (b : Byte) :
    scriptEvents s.sent (script (decode (.awaitingSpeed ch) b)) = (apply ch b).getD [] := by
  have trace := perform_trace (script (decode (.awaitingSpeed ch) b)) s
  rw [perform_script_speedByte] at trace
  exact (List.append_cancel_left trace).symm

/-- The magnitude is a drive's last event: a step that emits it, cut or not, emits the whole drive. -/
theorem StepEmits.drive_of_drvSetMagnitude {s t : State} {evs : List OutEvent} (h : StepEmits s t evs)
    {ch : Channel} {m : Nat} (hmem : OutEvent.drvSetMagnitude ch m ∈ evs) :
    ∃ b : Byte, b ≠ 0 ∧ m = magnitude b ∧
      evs = [.drvEnable ch, .drvSetDirection ch (direction b), .drvSetMagnitude ch m] := by
  obtain ⟨_, _, b, events⟩ := h.speedByte_of_driverEvent hmem rfl
  rw [scriptEvents_speedByte] at events
  have h0 : b ≠ 0 := by
    rintro rfl
    exact absurd (events.subset hmem) List.not_mem_nil
  rcases apply_cases (apply_eq_some_getD ch h0) with ⟨_, answer⟩ | ⟨_, _, answer⟩
  · rw [answer] at events
    simpa using events.subset hmem
  · rw [answer] at events
    obtain rfl : m = magnitude b := by simpa using events.subset hmem
    refine ⟨b, h0, rfl, ?_⟩
    obtain whole | cut :=
      List.prefix_concat_iff (l₂ := [OutEvent.drvEnable ch, .drvSetDirection ch (direction b)]).1 events
    · exact whole
    · simpa using cut.subset hmem

/-- Settles O27: a step that emits a magnitude emits a whole drive (`StepEmits.drive_of_drvSetMagnitude`), and of the
drives only 0x80's has magnitude 0. -/
theorem emittedMagnitudesInRange : Obligations.EmittedMagnitudesInRange := by
  intro s t evs h ch m hmem
  obtain ⟨b, h0, rfl, rfl⟩ := h.drive_of_drvSetMagnitude hmem
  refine ⟨magnitude_le_127 h0, by simp, fun hzero => ?_⟩
  have forward : direction b = .forward := by
    rw [magnitude_eq_zero_iff.1 hzero]
    rfl
  simp [forward]

end Sys2Proof.Machine

/-! The statements of the reboot handshake document: the boot-mode check (R113 to R117), `UPD` and a warm reset
(R118, R119), and the halted block (R112, R116). -/

namespace Sys2Proof.Machine

/-! ### The boot-mode check -/

/-- A match is cleared, and it chain-loads (R113). -/
theorem perform_bootScript_of_magic {s : State} (h : s.sent = Config.MAGIC) :
    perform (bootScript s.sent) s = { s with
      sent := 0, phase := .updateMode,
      trace := s.trace ++ [.memRead Config.SENTINEL_ADDR 4 Config.MAGIC, .memWrite Config.SENTINEL_ADDR 4 0,
        .chainLoad] } := by
  simp [bootScript, h, doAction, State.readSent, State.writeSent, State.emit, State.setPhase]

/-- Anything else is left alone, and the block starts (R113, R117). -/
theorem perform_bootScript_of_ne_magic {s : State} (h : s.sent ≠ Config.MAGIC) :
    perform (bootScript s.sent) s = { s with
      phase := .running, trace := s.trace ++ [.memRead Config.SENTINEL_ADDR 4 s.sent, .startupInit] } := by
  simp [bootScript, h, doAction, State.readSent, State.emit, State.setPhase]

theorem step_boot_of_magic {s : State} (hp : s.phase = .bootCheck) (hc : cutting s.inputs = none)
    (hs : s.sent = Config.MAGIC) : step s = .next { s with
      sent := 0, phase := .updateMode,
      trace := s.trace ++ [.memRead Config.SENTINEL_ADDR 4 Config.MAGIC, .memWrite Config.SENTINEL_ADDR 4 0,
        .chainLoad] } := by
  rw [step_boot hp hc, perform_bootScript_of_magic hs]

theorem step_boot_of_ne_magic {s : State} (hp : s.phase = .bootCheck) (hc : cutting s.inputs = none)
    (hs : s.sent ≠ Config.MAGIC) : step s = .next { s with
      phase := .running, trace := s.trace ++ [.memRead Config.SENTINEL_ADDR 4 s.sent, .startupInit] } := by
  rw [step_boot hp hc, perform_bootScript_of_ne_magic hs]

/-- Settles O31: the two paths of the boot sequence (`perform_bootScript_of_magic`,
`perform_bootScript_of_ne_magic`). -/
theorem bootChecksSentinel : Obligations.BootChecksSentinel := fun _ hp hc =>
  ⟨step_boot_of_magic hp hc, step_boot_of_ne_magic hp hc⟩

/-! ### The events of the boot sequence alone (R114, R153) -/

theorem startupInit_notMem_script (v : Word) (i : Instr) : OutEvent.startupInit ∉ scriptEvents v (script i) := by
  have never : (scriptEvents v (script i)).count .startupInit = 0 := by cases i <;> rfl
  exact List.count_eq_zero.1 never

theorem chainLoad_notMem_script (v : Word) (i : Instr) : OutEvent.chainLoad ∉ scriptEvents v (script i) := by
  have never : (scriptEvents v (script i)).count .chainLoad = 0 := by cases i <;> rfl
  exact List.count_eq_zero.1 never

theorem startupInit_mem_boot {v : Word} :
    OutEvent.startupInit ∈ scriptEvents v (bootScript v) ↔ v ≠ Config.MAGIC := by
  rw [scriptEvents_boot]
  split <;> simp [*]

theorem chainLoad_mem_boot {v : Word} : OutEvent.chainLoad ∈ scriptEvents v (bootScript v) ↔ v = Config.MAGIC := by
  rw [scriptEvents_boot]
  split <;> simp [*]

theorem count_startupInit_boot_le (v : Word) : (scriptEvents v (bootScript v)).count .startupInit ≤ 1 := by
  rw [scriptEvents_boot]
  split <;> simp

/-- A step that emits what no command does is a boot's. -/
theorem StepEmits.boot_of_notMem_script {s t : State} {evs : List OutEvent} (h : StepEmits s t evs) {e : OutEvent}
    (hmem : e ∈ evs) (hscript : ∀ i, e ∉ scriptEvents s.sent (script i)) : s.phase = .bootCheck := by
  cases h.events with
  | silent _ events => simp [events] at hmem
  | byte _ _ _ _ events => exact absurd (events.subset hmem) (hscript _)
  | boot phase _ _ => exact phase

/-- A boot's events, cut or not, are the first of its sequence's. -/
theorem StepEmits.events_of_boot {s t : State} {evs : List OutEvent} (h : StepEmits s t evs)
    (hp : s.phase = .bootCheck) : evs <+: scriptEvents s.sent (bootScript s.sent) := by
  cases h.events with
  | silent phase _ => exact absurd hp phase
  | byte _ _ phase _ _ => simp [hp] at phase
  | boot _ events _ => exact events

/-- Settles O32: no command emits either event, and of the boot sequence's two paths each has one of them
(`startupInit_mem_boot`, `chainLoad_mem_boot`). -/
theorem startupOnlyAfterCheck : Obligations.StartupOnlyAfterCheck := by
  intro s t evs h
  refine ⟨fun hstart => ?startup, fun hload => ?load, fun hp e more hevs => ?first⟩
  case startup =>
    have phase := h.boot_of_notMem_script hstart (startupInit_notMem_script _)
    have events := h.events_of_boot phase
    have sent := startupInit_mem_boot.1 (events.subset hstart)
    exact ⟨phase, sent, fun hload => sent (chainLoad_mem_boot.1 (events.subset hload))⟩
  case load =>
    have phase := h.boot_of_notMem_script hload (chainLoad_notMem_script _)
    have events := h.events_of_boot phase
    have sent := chainLoad_mem_boot.1 (events.subset hload)
    exact ⟨phase, sent, fun hstart => startupInit_mem_boot.1 (events.subset hstart) sent⟩
  case first =>
    have events := h.events_of_boot hp
    have once := (events.sublist.count_le _).trans (count_startupInit_boot_le s.sent)
    rw [hevs, scriptEvents_boot] at events
    obtain ⟨read, _⟩ := List.cons_prefix_cons.1 events
    exact ⟨read, once⟩

/-! ### `UPD` and a warm reset -/

/-- The second event of `UPD` is its sentinel write, and the halt is no `UpdateMode` (R110, R21). -/
theorem performCut_upd_warm_sent (n : Nat) {s : State} (hp : s.phase ≠ .updateMode) :
    (performCut n .warm (script .upd) s).sent = if n ≤ 1 then s.sent else Config.MAGIC := by
  match n with
  | 0 => exact sentAfterReset_warm s hp
  | 1 => exact sentAfterReset_warm (s.emit .txUpdateNotice) hp
  | 2 => exact sentAfterReset_warm ((s.emit .txUpdateNotice).writeSent Config.MAGIC) hp
  | n + 3 =>
    rw [if_neg (by omega)]
    exact sentAfterReset_warm (perform enterUpdateMode s) (by simp [perform_enterUpdateMode])

/-- Settles O37: the trace keeps the first `n` events (`performCut_trace`), the cell the write if it is among them
(`performCut_upd_warm_sent`). -/
theorem updCutByReset : Obligations.UpdCutByReset := by
  intro s n rest hp hm hi
  have upd : decode s.mode 4 = .upd := by rw [hm]; rfl
  have hstep := step_byteCut hp hi
  rw [upd] at hstep
  exact ⟨_, hstep, rfl, rfl, performCut_upd_warm_sent n (by simp [hp]), performCut_trace n .warm _ _⟩

/-- A warm reset keeps the request of a halted block (`sentAfterReset_warm`), and the boot that finds it chain-loads. -/
theorem run_warmReset_chainLoad {s : State} {rest : List Input} (hp : s.phase = .awaitReset)
    (hs : s.sent = Config.MAGIC) (hc : cutting rest = none) (next : ResetNext s .warm rest) :
    ∃ t, Host.Core.run Sys2Proof.core 2 s = .next t ∧ t.phase = .updateMode ∧ t.sent = 0 ∧ t.mode = .idle ∧
      t.trace = s.trace ++ [.memRead Config.SENTINEL_ADDR 4 Config.MAGIC, .memWrite Config.SENTINEL_ADDR 4 0,
        .chainLoad] := by
  have reset := step_reset (by simp [hp]) next
  have kept : (takeReset .warm { s with inputs := rest }).sent = Config.MAGIC :=
    (sentAfterReset_warm _ (by simp [hp])).trans hs
  have boot := step_boot_of_magic rfl (cutting_deliverLater _ _ hc) kept
  exact ⟨_, (run_succ 1 reset).trans (run_succ 0 boot), rfl, rfl, rfl, rfl⟩

/-- Settles O39: `UPD` leaves `MAGIC` and halts (`exec_upd`), the warm reset leads to `ChainLoad`
(`run_warmReset_chainLoad`), and the 0 it leaves is no `MAGIC`. -/
theorem updateHandshakeTrace : Obligations.UpdateHandshakeTrace := by
  intro s rest hp hm hc hi
  obtain ⟨r, upd, halted, requested, inputs, updTrace⟩ : ∃ r, step s = .next r ∧
      r.phase = .awaitReset ∧ r.sent = Config.MAGIC ∧ r.inputs = .reset .warm :: rest ∧
      r.trace = s.trace ++ [.txUpdateNotice, .memWrite Config.SENTINEL_ADDR 4 Config.MAGIC, .resetRequest] :=
    ⟨_, (step_of_decode ⟨hp, hi, rfl⟩ hm rfl).trans (exec_upd _), rfl, rfl, rfl, rfl⟩
  obtain ⟨t, run, phase, sent, mode, trace⟩ := run_warmReset_chainLoad halted requested hc (.inl inputs)
  refine ⟨t, (run_succ 2 upd).trans run, phase, sent, mode, ?trace, fun u hu hsent huc => ?later⟩
  case trace =>
    rw [trace, updTrace, List.append_assoc]
    rfl
  case later =>
    have zero : u.sent = 0 := hsent.trans sent
    rw [step_boot_of_ne_magic hu huc (zero ▸ magic_ne_zero.symm), zero]

/-! ### A warm reset outside `UPD` -/

/-- A warm reset with no byte at the link leaves the cell and the inputs alone (R21). -/
theorem takeReset_warm {s : State} (hp : s.phase ≠ .updateMode) (hu : s.unread = []) :
    takeReset .warm s = { s with mode := .idle, phase := .bootCheck, draws := s.draws + 1 } := by
  simp [takeReset, sentAfterReset_warm s hp, hu]

/-- A sequence that writes neither SENT nor PHASE changes MODE and the trace alone. -/
theorem perform_eq_of_writes_mode_only (as : List Action) (s : State)
    (hs : ∀ v, Action.writeSent v ∉ as) (hp : ∀ p, Action.setPhase p ∉ as) :
    perform as s =
      { s with mode := (perform as s).mode, trace := s.trace ++ scriptEvents s.sent as } := by
  rw [← perform_trace, ← perform_sent as s hs, ← perform_phase as s hp, ← perform_inputs as s,
    ← perform_unread as s, ← perform_draws as s]

/-- A warm reset inside a command other than `UPD` is one at rest, but for the events that stand (R119, R133). -/
theorem performCut_warm_script {i : Instr} (n : Nat) {s : State} (hi : i ≠ .upd) (hp : s.phase ≠ .updateMode)
    (hu : s.unread = []) :
    performCut n .warm (script i) s = { s with
      mode := .idle, phase := .bootCheck, draws := s.draws + 1,
      trace := s.trace ++ (scriptEvents s.sent (script i)).take n } := by
  obtain ⟨noWrite, noPhase⟩ := script_writes_mode_only i hi
  have sub := cutAfter_sublist n (script i)
  rw [performCut, perform_eq_of_writes_mode_only _ s (fun v h => noWrite v (sub.subset h))
    (fun p h => noPhase p (sub.subset h)), scriptEvents_cutAfter]
  exact takeReset_warm hp hu

/-- `s` once a warm reset that kept the cell is taken, with the events `evs` of the reaction it cut. -/
def warmResetAfter (evs : List OutEvent) (rest : List Input) (s : State) : State :=
  { s with
    mode := .idle, phase := .bootCheck, inputs := rest, draws := s.draws + 1, trace := s.trace ++ evs }

theorem step_warmReset {s : State} {rest : List Input} (inv : RestInv s) (hp : s.phase = .running)
    (next : ResetNext s .warm rest) : step s = .next (warmResetAfter [] rest s) := by
  have unread := inv.none_unread (.inl hp)
  rw [step_reset (by simp [hp]) next, takeReset_warm (s := { s with inputs := rest }) (by simp [hp]) unread,
    warmResetAfter, List.append_nil]

theorem step_warmCut {s : State} {b : Byte} {n : Nat} {rest : List Input} (inv : RestInv s)
    (hp : s.phase = .running) (hi : s.inputs = .rx b :: .resetDuring n .warm :: rest)
    (hupd : decode s.mode b ≠ .upd) :
    step s = .next (warmResetAfter ((scriptEvents s.sent (script (decode s.mode b))).take n) rest s) := by
  have unread := inv.none_unread (.inl hp)
  rw [step_byteCut hp hi, performCut_warm_script (s := { s with inputs := rest }) n hupd (by simp [hp]) unread]
  rfl

/-- The boot behind such a reset of a running block is the ordinary one, since the cell is not `MAGIC`. -/
theorem run_boot_warmResetAfter {s : State} (evs : List OutEvent) {rest : List Input} (inv : RestInv s)
    (hp : s.phase = .running) (hc : cutting rest = none) (reset : step s = .next (warmResetAfter evs rest s)) :
    Host.Core.run Sys2Proof.core 2 s = .next { s with
      mode := .idle, inputs := rest, draws := s.draws + 1,
      trace := s.trace ++ evs ++ [.memRead Config.SENTINEL_ADDR 4 s.sent, .startupInit] } := by
  have boot : step (warmResetAfter evs rest s) = _ := step_boot_of_ne_magic rfl hc (inv.running_not_magic hp)
  rw [run_succ 1 reset, run_succ 0 boot, hp]
  rfl

/-- Settles O40: at rest (`step_warmReset`) or inside a step (`step_warmCut`) the reset keeps the cell, and the
ordinary boot follows (`run_boot_warmResetAfter`). -/
theorem warmResetOutsideUpdBootsNormally : Obligations.WarmResetOutsideUpdBootsNormally := by
  intro s rest inv hp hc
  refine ⟨fun next => ?atRest, fun u b n hi hupd hwhole => ?cut⟩
  case atRest =>
    have run := run_boot_warmResetAfter [] inv hp hc (step_warmReset inv hp next)
    rwa [List.append_nil] at run
  case cut =>
    have whole := step_byteReady (s := { s with inputs := [.rx b] }) ⟨hp, rfl, rfl⟩
    obtain rfl := Host.Outcome.next.inj (whole.symm.trans hwhole)
    exact ⟨_, perform_trace _ _, run_boot_warmResetAfter _ inv hp hc (step_warmCut inv hp hi hupd)⟩

/-! ### The halted block -/

/-- Settles O41: of what a step can do, a halted block waits, leaves a byte unread or takes a reset. -/
theorem haltedUntilReset : Obligations.HaltedUntilReset := by
  intro s t hp h
  have notBoot : s.phase ≠ .bootCheck := by rcases hp with hp | hp <;> simp [hp]
  have notRunning : s.phase ≠ .running := by rcases hp with hp | hp <;> simp [hp]
  cases step_cases h with
  | waits _ _ result => subst result; exact .inl ⟨rfl, rfl, rfl, rfl, rfl⟩
  | byte _ _ ready _ =>
    obtain ⟨phase, _, _⟩ := ready
    exact absurd phase notRunning
  | byteCut _ _ _ _ phase _ _ => exact absurd phase notRunning
  | boot phase _ _ => exact absurd phase notBoot
  | bootCut _ _ _ phase _ _ => exact absurd phase notBoot
  | resetTaken k rest _ next result => subst result; exact .inr ⟨k, rest, next, rfl, rfl, rfl⟩
  | byteUnread _ _ _ _ result => subst result; exact .inl ⟨rfl, rfl, rfl, rfl, rfl⟩

end Sys2Proof.Machine

/-! The statements of the exceptions document: no fault (R130), taking a reset (R134, R151), and the reset that falls
inside a reaction (R133) or inside a boot sequence (R135). -/

namespace Sys2Proof.Machine

/-! ### A next state for every input -/

theorem exec_answers_next (i : Instr) (s : State) : ∃ t, exec i s = .next t := ⟨_, exec_eq_perform i s⟩

theorem step_boot_answers_next {s : State} (hp : s.phase = .bootCheck) : ∃ t, step s = .next t := by
  cases hc : cutting s.inputs with
  | none => exact ⟨_, step_boot hp hc⟩
  | some cut =>
    obtain ⟨n, k, rest⟩ := cut
    exact ⟨_, step_bootCut hp (cutting_eq_some.1 hc)⟩

theorem step_running_rx_answers_next {s : State} {b : Byte} {rest : List Input} (hp : s.phase = .running)
    (hi : s.inputs = .rx b :: rest) : ∃ t, step s = .next t := by
  cases hc : cutting rest with
  | none => exact ⟨_, step_byteReady ⟨hp, hi, hc⟩⟩
  | some cut =>
    obtain ⟨n, k, behind⟩ := cut
    obtain rfl := cutting_eq_some.1 hc
    exact ⟨_, step_byteCut hp hi⟩

theorem step_rx_answers_next {s : State} {b : Byte} {rest : List Input} (hi : s.inputs = .rx b :: rest) :
    ∃ t, step s = .next t := by
  cases hp : s.phase with
  | bootCheck => exact step_boot_answers_next hp
  | running => exact step_running_rx_answers_next hp hi
  | awaitReset => exact ⟨_, step_byteUnread (.inl hp) hi⟩
  | updateMode => exact ⟨_, step_byteUnread (.inr hp) hi⟩

/-- One of the cases of `step_cases` always applies: a boot sequence runs, and in every other PHASE the next input says
what happens. -/
theorem step_answers_next (s : State) : ∃ t, step s = .next t := by
  by_cases hp : s.phase = .bootCheck
  · exact step_boot_answers_next hp
  match hi : s.inputs with
  | [] => exact ⟨_, step_waits hp hi⟩
  | .rx b :: rest => exact step_rx_answers_next hi
  | .reset k :: rest => exact ⟨_, step_reset hp (.inl hi)⟩
  | .resetDuring n k :: rest => exact ⟨_, step_reset hp (.inr ⟨n, hi⟩)⟩

/-- Settles O7: `step_answers_next` and `exec_answers_next`. -/
theorem stepAlwaysAnswersNext : Obligations.StepAlwaysAnswersNext := ⟨step_answers_next, exec_answers_next⟩

/-- Settles O6, the part of O7 on a running block's inputs and on well-formed instructions. -/
theorem runningBlockHasNoFault : Obligations.RunningBlockHasNoFault :=
  ⟨fun s _ _ _ _ => step_answers_next s, fun i s _ => exec_answers_next i s⟩

/-! ### What taking a reset changes -/

/-- A warm reset that ends UpdateMode: the update image may have written the cell (R25). -/
theorem sentAfterReset_warm_of_updateMode {s : State} (h : s.phase = .updateMode) :
    sentAfterReset .warm s =
      if Config.UPDATE_IMAGE_PRESERVES_SENTINEL then s.sent else Config.drawnWord s.draws := by
  cases hpres : Config.UPDATE_IMAGE_PRESERVES_SENTINEL <;> simp [sentAfterReset, h, hpres]

/-- With no byte at the link none is delivered (R158). -/
theorem takeReset_inputs_of_unread_nil {s : State} (k : ResetKind) (h : s.unread = []) :
    (takeReset k s).inputs = s.inputs := by
  rw [takeReset_inputs, h, deliveredAfterReset_nil, deliverLater_nil]

/-- Settles O35: the fields after `takeReset`, SENT by the kind of reset and by the PHASE it ends. -/
theorem resetEntersBootCheck : Obligations.ResetEntersBootCheck := by
  intro s kind rest hp next
  refine ⟨_, step_reset hp next, rfl, rfl, rfl, rfl, ?powerOn, ?warm, ?endsUpdateMode,
    takeReset_inputs_of_unread_nil kind (s := { s with inputs := rest })⟩
  case powerOn =>
    rintro rfl
    exact sentAfterReset_powerOn _
  case warm =>
    rintro rfl notUpdate
    exact sentAfterReset_warm _ notUpdate
  case endsUpdateMode =>
    rintro rfl update
    exact sentAfterReset_warm_of_updateMode update

/-! ### A reset inside a reaction -/

/-- A command other than `UPD` leaves the cell to the reset that cuts it (R119). -/
theorem performCut_script_warm_sent {i : Instr} (n : Nat) {s : State} (hi : i ≠ .upd) (hp : s.phase ≠ .updateMode) :
    (performCut n .warm (script i) s).sent = s.sent := by
  obtain ⟨noWrite, noPhase⟩ := script_writes_mode_only i hi
  exact performCut_sent_warm n _ s hp noWrite noPhase

/-- Settles O36: whole and cut, the reaction is one sequence, and the cut emits the first `n` of its events
(`perform_trace`, `performCut_trace`). -/
theorem resetKeepsEmittedEvents : Obligations.ResetKeepsEmittedEvents := by
  refine ⟨fun s t u b n kind rest hp hi hcut hwhole => ?byte, fun s t u n kind rest hp hi hcut hwhole => ?boot⟩
  case byte =>
    have whole := step_byteReady (s := { s with inputs := [.rx b] }) ⟨hp, rfl, rfl⟩
    obtain rfl := Host.Outcome.next.inj (whole.symm.trans hwhole)
    obtain rfl := Host.Outcome.next.inj ((step_byteCut hp hi).symm.trans hcut)
    refine ⟨_, perform_trace _ _, performCut_trace n kind _ _, rfl, rfl, ?warm, ?powerOn⟩
    case warm =>
      rintro rfl notUpd
      exact performCut_script_warm_sent n notUpd (by simp [hp])
    case powerOn =>
      rintro rfl
      exact performCut_sent_powerOn n _ _
  case boot =>
    have whole := step_boot (s := { s with inputs := [] }) hp rfl
    obtain rfl := Host.Outcome.next.inj (whole.symm.trans hwhole)
    obtain rfl := Host.Outcome.next.inj ((step_bootCut hp hi).symm.trans hcut)
    refine ⟨_, perform_trace _ _, performCut_trace n kind _ _, rfl, rfl, ?_⟩
    rintro rfl
    exact performCut_sent_powerOn n _ _

/-! ### A warm reset inside a boot sequence -/

theorem bootScript_magic :
    bootScript Config.MAGIC = [.readSent, .writeSent 0, .emit .chainLoad, .setPhase .updateMode] :=
  congrArg (Action.readSent :: ·) (if_pos rfl)

theorem bootScript_of_ne_magic {v : Word} (h : v ≠ Config.MAGIC) :
    bootScript v = [.readSent, .emit .startupInit, .setPhase .running] :=
  congrArg (Action.readSent :: ·) (if_neg h)

/-- Without a request no line writes the cell or enters UpdateMode. -/
theorem performCut_boot_warm_sent_of_ne_magic (n : Nat) {s : State} (hp : s.phase = .bootCheck)
    (hs : s.sent ≠ Config.MAGIC) : (performCut n .warm (bootScript s.sent) s).sent = s.sent := by
  have notUpdate : s.phase ≠ .updateMode := by simp [hp]
  rw [bootScript_of_ne_magic hs]
  match n with
  | 0 => exact sentAfterReset_warm s notUpdate
  | 1 => exact sentAfterReset_warm s.readSent notUpdate
  | _ + 2 => exact sentAfterReset_warm ((s.readSent.emit .startupInit).setPhase .running) (nofun)

/-- With a request: the second event clears the cell, and the third enters UpdateMode, which the reset then ends (R135,
R25). -/
theorem performCut_boot_warm_sent_of_magic (n : Nat) {s : State} (hp : s.phase = .bootCheck)
    (hs : s.sent = Config.MAGIC) :
    (performCut n .warm (bootScript s.sent) s).sent =
      if n ≤ 1 then Config.MAGIC
      else if n = 2 then 0
      else if Config.UPDATE_IMAGE_PRESERVES_SENTINEL then 0 else Config.drawnWord s.draws := by
  have notUpdate : s.phase ≠ .updateMode := by simp [hp]
  rw [hs, bootScript_magic]
  match n with
  | 0 => exact (sentAfterReset_warm s notUpdate).trans hs
  | 1 => exact (sentAfterReset_warm s.readSent notUpdate).trans hs
  | 2 => exact sentAfterReset_warm (s.readSent.writeSent 0) notUpdate
  | n + 3 =>
    rw [if_neg (by omega), if_neg (by omega)]
    exact sentAfterReset_warm_of_updateMode
      (s := ((s.readSent.writeSent 0).emit .chainLoad).setPhase .updateMode) rfl

/-- Settles O38: SENT by the number of events that stand (`performCut_boot_warm_sent_of_magic`), and untouched without
a request (`performCut_boot_warm_sent_of_ne_magic`). -/
theorem bootCutByReset : Obligations.BootCutByReset := by
  intro s n rest hp hi
  have unrequested := performCut_boot_warm_sent_of_ne_magic n (s := { s with inputs := rest }) hp
  have requested := performCut_boot_warm_sent_of_magic n (s := { s with inputs := rest }) hp
  refine ⟨_, step_bootCut hp hi, rfl, rfl, unrequested, fun hs early => ?stands, fun hs cleared => ?lost,
    fun hs late => ?loaded⟩
  case stands => exact (requested hs).trans (if_pos early)
  case lost =>
    subst cleared
    exact requested hs
  case loaded =>
    rw [requested hs, if_neg (by omega), if_neg (by omega)]

end Sys2Proof.Machine

/-! The statements on reset and hazards: the invariant of the states at rest and the number of a step's events
(R166). -/

namespace Sys2Proof.Machine

/-! ### The invariant of the states at rest -/

/-- Whatever a reset finds, it leaves MODE in `Idle` and no byte unread, and `BootCheck` asks nothing of SENT. -/
theorem restInv_takeReset (k : ResetKind) (s : State) : RestInv (takeReset k s) where
  idle_unless_running _ := rfl
  running_not_magic := nofun
  awaitReset_magic := nofun
  none_unread _ := rfl

/-- `UPD` halts with `MAGIC` in the cell (R110) and leaves MODE alone, which is `Idle` where `UPD` is decoded. -/
theorem restInv_perform_upd {s : State} (hm : s.mode = .idle) : RestInv (perform (script .upd) s) := by
  rw [script, scriptUpd, perform_enterUpdateMode]
  exact ⟨fun _ => hm, nofun, fun _ => rfl, nofun⟩

/-- Every other command leaves the block running, and SENT and the link alone. -/
theorem RestInv.perform_script {i : Instr} {s : State} (inv : RestInv s) (hp : s.phase = .running) (hi : i ≠ .upd) :
    RestInv (perform (script i) s) := by
  have running : (perform (script i) s).phase = .running := (perform_script_phase s hi).trans hp
  refine ⟨fun halted => absurd running halted, fun _ => ?sent, fun halted => ?halted, fun _ => ?unread⟩
  case sent =>
    rw [perform_script_sent s hi]
    exact inv.running_not_magic hp
  case halted => simp [running] at halted
  case unread =>
    rw [perform_unread]
    exact inv.none_unread (.inl hp)

/-- The boot sequence starts the block only if the cell does not hold `MAGIC` (R113). -/
theorem RestInv.perform_boot {s : State} (inv : RestInv s) (hp : s.phase = .bootCheck) :
    RestInv (perform (bootScript s.sent) s) := by
  have idle := inv.idle_unless_running (by simp [hp])
  have unread := inv.none_unread (.inr hp)
  by_cases hs : s.sent = Config.MAGIC
  · rw [perform_bootScript_of_magic hs]
    exact ⟨fun _ => idle, nofun, nofun, fun _ => unread⟩
  · rw [perform_bootScript_of_ne_magic hs]
    exact ⟨fun _ => idle, fun _ => hs, nofun, fun _ => unread⟩

/-- The invariant does not look at the inputs to come. -/
theorem RestInv.with_inputs {s : State} (inv : RestInv s) (is : List Input) : RestInv { s with inputs := is } :=
  ⟨inv.idle_unless_running, inv.running_not_magic, inv.awaitReset_magic, inv.none_unread⟩

/-- A whole step on a byte: `UPD` or another command. -/
theorem RestInv.perform_decode {s : State} (inv : RestInv s) (hp : s.phase = .running) (b : Byte) :
    RestInv (perform (script (decode s.mode b)) s) := by
  by_cases upd : decode s.mode b = .upd
  · obtain ⟨idle, _⟩ := decode_eq_upd upd
    exact upd ▸ restInv_perform_upd idle
  · exact inv.perform_script hp upd

/-- A halted block may leave bytes at the link. -/
theorem RestInv.with_unread {s : State} (inv : RestInv s) (hp : s.phase = .awaitReset ∨ s.phase = .updateMode)
    (bs : List Byte) : RestInv { s with unread := bs } := by
  refine ⟨inv.idle_unless_running, inv.running_not_magic, inv.awaitReset_magic, fun reading => ?_⟩
  rcases hp with hp | hp <;> simp [hp] at reading

/-- Settles O43, by what a step can do: every step that ends in a reset meets the invariant whatever it cut
(`restInv_takeReset`), and a whole reaction keeps it (`RestInv.perform_decode`, `RestInv.perform_boot`). -/
theorem stepKeepsRestInvariant : Obligations.StepKeepsRestInvariant := by
  intro s t inv h
  cases step_cases h with
  | waits _ _ result => exact result ▸ inv
  | byte b rest ready result =>
    obtain ⟨phase, _, _⟩ := ready
    exact result ▸ (inv.with_inputs rest).perform_decode phase b
  | byteCut _ _ k _ _ _ result => exact result ▸ restInv_takeReset k _
  | boot phase _ result => exact result ▸ inv.perform_boot phase
  | bootCut _ k _ _ _ result => exact result ▸ restInv_takeReset k _
  | resetTaken k _ _ _ result => exact result ▸ restInv_takeReset k _
  | byteUnread b rest phase _ result => exact result ▸ (inv.with_inputs rest).with_unread phase _

/-! ### The number of a step's events -/

/-- The events of each command (R78): none for `NOP`, `NOPU`, the selections and `SPDNOP`; one for `VER` and `SPDDIS`;
three for `UPD` and the drives. -/
theorem scriptEvents_script_length (v : Word) (i : Instr) :
    (scriptEvents v (script i)).length = 0 ∨ (scriptEvents v (script i)).length = 1 ∨
      (scriptEvents v (script i)).length = 3 := by
  cases i with
  | nop | sel0 | sel1 | nopu _ | spdnop _ => exact .inl rfl
  | ver | spddis _ => exact .inr (.inl rfl)
  | upd | spdrev _ _ | spdfwd _ _ => exact .inr (.inr rfl)

/-- A step that no reset cuts emits all of the decoded byte's events. -/
theorem StepEmits.events_of_byteReady {s t : State} {b : Byte} {rest : List Input} {evs : List OutEvent}
    (h : StepEmits s t evs) (ready : ByteReady s b rest) :
    evs = scriptEvents s.sent (script (decode s.mode b)) := by
  obtain ⟨hstep, htrace⟩ := h
  obtain rfl := Host.Outcome.next.inj ((step_byteReady ready).symm.trans hstep)
  exact List.append_cancel_left (htrace.symm.trans (perform_trace _ _))

/-- Settles O29: the events are those of one command's whole sequence (`StepEmits.events_of_byteReady`). -/
theorem wholeStepEmitsZeroOneOrThree : Obligations.WholeStepEmitsZeroOneOrThree := by
  intro s t b rest evs ready h
  rw [h.events_of_byteReady ready]
  exact scriptEvents_script_length _ _

end Sys2Proof.Machine
